-- ==== Sys2Proof/Word.lean ====
section
/-! DEFINITION. The words of WTOSC whose width the spec fixes. Words whose width is a parameter of the
instance (PHASE, INC, OUT, table entries) are integers with a stated range: 00_scope.md R12, R13. -/

namespace Sys2Proof

/-- A byte of the message port (30_encoding.md R81, R89). -/
abbrev Byte := BitVec 8

/-- A 7-bit MIDI data value: a note number, a velocity (30_encoding.md R82) or the gain code (10_state.md R27). -/
abbrev Data7 := BitVec 7

/-- The channel nibble of a status byte (30_encoding.md R81). -/
abbrev Chan := BitVec 4

/-- A command word of the channel, format CMD15 (30_encoding.md R87). -/
abbrev Cmd := BitVec 15

end Sys2Proof
end

