-- ==== Sys2Proof/Machine/Operands.lean ====
section
/-! DEFINITION. The operand fields of the two formats: the bytes of a message (30_encoding.md R81, R82) and the
fields of a command word (R87). WTOSC has no other operand form: no register, immediate or address is named by an
operation (10_state.md R21, 30_encoding.md R82). -/

namespace Sys2Proof.Machine

/-- KIND = b0[7:4], the status nibble (R81). -/
def kindOf (b0 : Byte) : BitVec 4 := b0.extractLsb' 4 4

/-- CHAN = b0[3:0] (R81); no meaning reads it (R157). -/
def chanOf (b0 : Byte) : Chan := b0.extractLsb' 0 4

/-- Bit 7 of a byte: 1 in a status byte, D1H and D2H in a data byte (R81). -/
def highBit (b : Byte) : Bool := b.getLsbD 7

/-- NOTE = b1[6:0] and VALUE = b2[6:0] (R81, R82). -/
def dataOf (b : Byte) : Data7 := b.extractLsb' 0 7

/-- KIND of a note-on (R84). -/
def kindNoteOn : BitVec 4 := 0x9#4

/-- KIND of a note-off (R84). -/
def kindNoteOff : BitVec 4 := 0x8#4

/-- The status byte of a kind and a channel. -/
def statusByte (kind : BitVec 4) (chan : Chan) : Byte := kind ++ chan

/-- The data byte of a 7-bit value: bit 7 clear (R81). -/
def dataByte (d : Data7) : Byte := 0#1 ++ d

/-- The 24-bit message word `b0 ++ b1 ++ b2` (R81). -/
def messageWord (b0 b1 b2 : Byte) : BitVec 24 := b0 ++ b1 ++ b2

/-- OP = c[14]: 1 is NoteOn (R87). -/
def cmdIsOn (c : Cmd) : Bool := c.getLsbD 14

/-- CNOTE = c[13:7] (R87). -/
def cmdNote (c : Cmd) : Data7 := c.extractLsb' 7 7

/-- CVEL = c[6:0] (R87). -/
def cmdVel (c : Cmd) : Data7 := c.extractLsb' 0 7

/-- A command word from its fields `OP ++ CNOTE ++ CVEL` (R87). -/
def cmdWord (op : BitVec 1) (note vel : Data7) : Cmd := op ++ note ++ vel

/-- `NoteOn{n, v}` encodes as `1 ++ n ++ v` (R87). -/
def noteOnWord (note vel : Data7) : Cmd := cmdWord 1#1 note vel

/-- `NoteOff{n}` encodes as `0 ++ n ++ 0000000` (R87). -/
def noteOffWord (note : Data7) : Cmd := cmdWord 0#1 note 0#7

/-- The legal command words: a NoteOn with CVEL not 0, a NoteOff with CVEL = 0 (R88). -/
def cmdLegal (c : Cmd) : Bool := if cmdIsOn c then cmdVel c != 0#7 else cmdVel c == 0#7

end Sys2Proof.Machine
end

