-- ==== Sys2Proof/Syntax.lean ====
section
/-! DEFINITION. The operations of WTOSC, one constructor per row of spec/opcode_table.json (30_encoding.md R80,
R94), and what presents an operation to the block. -/

namespace Sys2Proof

/-- The operations (30_encoding.md R80, R85; one constructor per row of opcode_table.json). Recognised messages carry
their fields, ignored messages the length and bytes as presented, so that no bit of an encoding is lost. -/
inductive Instr where
  /-- MSG_NOTE_ON: channel, note, velocity not 0 (R152). -/
  | msgNoteOn (chan : Chan) (note vel : Data7)
  /-- MSG_NOTE_ON_V0: channel, note; the velocity byte is 0 (R153). -/
  | msgNoteOnV0 (chan : Chan) (note : Data7)
  /-- MSG_NOTE_OFF: channel, note, release velocity (R154). -/
  | msgNoteOff (chan : Chan) (note rel : Data7)
  /-- MSG_IGN_LEN: a length other than 3 (R85, class LEN). -/
  | msgIgnLen (len : Nat) (b0 b1 b2 : Byte)
  /-- MSG_IGN_NOSTATUS: b0 below 0x80 (R85, class NOSTATUS). -/
  | msgIgnNoStatus (b0 b1 b2 : Byte)
  /-- MSG_IGN_STATUS, first row: KIND 0xA or 0xB (R85, class STATUS). -/
  | msgIgnStatusAB (b0 b1 b2 : Byte)
  /-- MSG_IGN_STATUS, second row: KIND 0xC to 0xF (R85, class STATUS). -/
  | msgIgnStatusCF (b0 b1 b2 : Byte)
  /-- MSG_IGN_DATA, first row: KIND 0x8 or 0x9 and b1[7] = 1 (R85, class DATA). -/
  | msgIgnDataB1 (b0 b1 b2 : Byte)
  /-- MSG_IGN_DATA, second row: KIND 0x8 or 0x9 and b2[7] = 1; words with b1[7] = 1 belong to the first row. -/
  | msgIgnDataB2 (b0 b1 b2 : Byte)
  /-- CMD_NOTE_ON: CNOTE and CVEL of a word with OP = 1 (R172). -/
  | cmdNoteOn (note vel : Data7)
  /-- CMD_NOTE_OFF: CNOTE and CVEL of a word with OP = 0, both unused by the apply (R173). -/
  | cmdNoteOff (note vel : Data7)
  /-- SAMPLE: one render step (R170). -/
  | sample
  /-- RESET (R221). -/
  | reset
  deriving DecidableEq, Repr

/-- What presents an operation (30_encoding.md R80, column "what presents it"). -/
inductive Presented where
  /-- A message on the message port: its length and three bytes (R81). -/
  | msg (len : Nat) (b0 b1 b2 : Byte)
  /-- A command word of the FIFO (R87). -/
  | cmd (w : Cmd)
  /-- `smp_req` on the sample port (R89). -/
  | pull
  /-- The `rst` input (R89). -/
  | rst
  deriving DecidableEq, Repr

/-- The formats of 30_encoding.md R80. -/
inductive Format where
  | msg3
  | cmd15
  | port
  deriving DecidableEq, Repr

/-- The format of an operation (30_encoding.md R80, column "format"). -/
def Instr.format : Instr → Format
  | .msgNoteOn _ _ _ => .msg3
  | .msgNoteOnV0 _ _ => .msg3
  | .msgNoteOff _ _ _ => .msg3
  | .msgIgnLen _ _ _ _ => .msg3
  | .msgIgnNoStatus _ _ _ => .msg3
  | .msgIgnStatusAB _ _ _ => .msg3
  | .msgIgnStatusCF _ _ _ => .msg3
  | .msgIgnDataB1 _ _ _ => .msg3
  | .msgIgnDataB2 _ _ _ => .msg3
  | .cmdNoteOn _ _ => .cmd15
  | .cmdNoteOff _ _ => .cmd15
  | .sample => .port
  | .reset => .port

/-- The format in which something is presented. -/
def Presented.format : Presented → Format
  | .msg _ _ _ _ => .msg3
  | .cmd _ => .cmd15
  | .pull => .port
  | .rst => .port

/-- The priority of the row of 30_encoding.md R83 (opcode_table.json "priority") that a message operation stands
for; operations that are no message have none. -/
def Instr.priority : Instr → Option Nat
  | .msgIgnLen _ _ _ _ => some 1
  | .msgIgnNoStatus _ _ _ => some 2
  | .msgIgnStatusAB _ _ _ => some 3
  | .msgIgnStatusCF _ _ _ => some 3
  | .msgIgnDataB1 _ _ _ => some 4
  | .msgIgnDataB2 _ _ _ => some 4
  | .msgNoteOnV0 _ _ => some 5
  | .msgNoteOn _ _ _ => some 6
  | .msgNoteOff _ _ _ => some 7
  | .cmdNoteOn _ _ => none
  | .cmdNoteOff _ _ => none
  | .sample => none
  | .reset => none

/-- The ignored messages (30_encoding.md R85). -/
def Instr.ignored : Instr → Bool
  | .msgIgnLen _ _ _ _ => true
  | .msgIgnNoStatus _ _ _ => true
  | .msgIgnStatusAB _ _ _ => true
  | .msgIgnStatusCF _ _ _ => true
  | .msgIgnDataB1 _ _ _ => true
  | .msgIgnDataB2 _ _ _ => true
  | .msgNoteOn _ _ _ => false
  | .msgNoteOnV0 _ _ => false
  | .msgNoteOff _ _ _ => false
  | .cmdNoteOn _ _ => false
  | .cmdNoteOff _ _ => false
  | .sample => false
  | .reset => false

end Sys2Proof
end

