-- ==== Sys2Proof/WellFormed.lean ====
section
/-! DEFINITION. Which operations are well formed: a recognised message is one its row of 30_encoding.md R83 selects,
an ignored message belongs to its class (R85), and a length fits the LW-bit field (R81). -/

namespace Sys2Proof

open Machine

/-- Well-formedness of an operation for a length field of `lw` bits (30_encoding.md R83, R85, R86). -/
def Instr.wf (lw : Nat) : Instr → Bool
  | .msgNoteOn _ _ vel => vel != 0#7
  | .msgNoteOnV0 _ _ => true
  | .msgNoteOff _ _ _ => true
  | .msgIgnLen len _ _ _ => len != 3 && decide (len < 2 ^ lw)
  | .msgIgnNoStatus b0 _ _ => !highBit b0
  | .msgIgnStatusAB b0 _ _ => kindOf b0 == 0xA#4 || kindOf b0 == 0xB#4
  | .msgIgnStatusCF b0 _ _ => decide (0xC#4 ≤ kindOf b0)
  | .msgIgnDataB1 b0 b1 _ => (kindOf b0 == kindNoteOff || kindOf b0 == kindNoteOn) && highBit b1
  | .msgIgnDataB2 b0 b1 b2 => (kindOf b0 == kindNoteOff || kindOf b0 == kindNoteOn) && !highBit b1 && highBit b2
  | .cmdNoteOn _ _ => true
  | .cmdNoteOff _ _ => true
  | .sample => true
  | .reset => true

/-- What the ports of an instance with an `lw`-bit length field can carry (30_encoding.md R86). -/
def Presented.fits (lw : Nat) : Presented → Bool
  | .msg len _ _ _ => decide (len < 2 ^ lw)
  | .cmd _ => true
  | .pull => true
  | .rst => true

end Sys2Proof
end

