-- ==== Sys2Proof/Decode.lean ====
section
/-! DEFINITION. The decoder (30_encoding.md R83, 42_command_mapper.md R151) and, after it, the encoder, both between
operations and what the ports and the FIFO present; then the same through the bit numbers of opcode_table.json. -/

namespace Sys2Proof

open Machine

/-- The decode map of a message, the rows of 30_encoding.md R83 in priority order; it answers on every length and
byte triple. -/
def decodeMsg (len : Nat) (b0 b1 b2 : Byte) : Instr :=
  if len ≠ 3 then .msgIgnLen len b0 b1 b2
  else if highBit b0 = false then .msgIgnNoStatus b0 b1 b2
  else if kindOf b0 = 0xA#4 ∨ kindOf b0 = 0xB#4 then .msgIgnStatusAB b0 b1 b2
  else if kindOf b0 ≠ kindNoteOff ∧ kindOf b0 ≠ kindNoteOn then .msgIgnStatusCF b0 b1 b2
  else if highBit b1 = true then .msgIgnDataB1 b0 b1 b2
  else if highBit b2 = true then .msgIgnDataB2 b0 b1 b2
  else if kindOf b0 = kindNoteOn ∧ dataOf b2 = 0#7 then .msgNoteOnV0 (chanOf b0) (dataOf b1)
  else if kindOf b0 = kindNoteOn then .msgNoteOn (chanOf b0) (dataOf b1) (dataOf b2)
  else .msgNoteOff (chanOf b0) (dataOf b1) (dataOf b2)

/-- The decode of a command word by its OP bit (30_encoding.md R87; 43_render_loop.md R170). -/
def decodeCmd (w : Cmd) : Instr :=
  if cmdIsOn w then .cmdNoteOn (cmdNote w) (cmdVel w) else .cmdNoteOff (cmdNote w) (cmdVel w)

/-- The decoder: which operation is presented (30_encoding.md R80). -/
def decode : Presented → Instr
  | .msg len b0 b1 b2 => decodeMsg len b0 b1 b2
  | .cmd w => decodeCmd w
  | .pull => .sample
  | .rst => .reset

/-- The encoder, from the encodings of R152 to R155 (messages), R87 (command words) and R80 (ports). -/
def encode : Instr → Presented
  | .msgNoteOn chan note vel => .msg 3 (statusByte kindNoteOn chan) (dataByte note) (dataByte vel)
  | .msgNoteOnV0 chan note => .msg 3 (statusByte kindNoteOn chan) (dataByte note) 0#8
  | .msgNoteOff chan note rel => .msg 3 (statusByte kindNoteOff chan) (dataByte note) (dataByte rel)
  | .msgIgnLen len b0 b1 b2 => .msg len b0 b1 b2
  | .msgIgnNoStatus b0 b1 b2 => .msg 3 b0 b1 b2
  | .msgIgnStatusAB b0 b1 b2 => .msg 3 b0 b1 b2
  | .msgIgnStatusCF b0 b1 b2 => .msg 3 b0 b1 b2
  | .msgIgnDataB1 b0 b1 b2 => .msg 3 b0 b1 b2
  | .msgIgnDataB2 b0 b1 b2 => .msg 3 b0 b1 b2
  | .cmdNoteOn note vel => .cmd (cmdWord 1#1 note vel)
  | .cmdNoteOff note vel => .cmd (cmdWord 0#1 note vel)
  | .sample => .pull
  | .reset => .rst

/-- Why a number is no operation's word. -/
inductive WordError where
  /-- No format of the model has this many bits. -/
  | unknownWidth
  /-- The number has bits above those of its format. -/
  | bitsBeyondFormat
  /-- A port word with neither `smp_req` nor `rst`. -/
  | nothingRequested
  deriving DecidableEq, Repr

/-- Byte `k` of a number, byte 0 the lowest. -/
def byteAt (k w : Nat) : Byte := BitVec.ofNat 8 (w >>> (8 * k))

/-- What a word of `nbits` bits presents, its bits numbered as opcode_table.json numbers them (bit 0 the least
significant). 24 bits are a message of length 3 (30_encoding.md R81), 15 bits (16 in whole bytes) a command word
(R87). Two widths are the model's own (log entry 5, DESIGN CHOICE): 32 bits are a message with its length in bits
31 to 24, the `MSGL` line of R92; 8 bits are the port pins, bit 0 `smp_req` and bit 1 `rst`, which the table gives no
number. -/
def presentedOfWord (nbits w : Nat) : Except WordError Presented :=
  if nbits = 24 then
    if w < 2 ^ 24 then .ok (.msg 3 (byteAt 2 w) (byteAt 1 w) (byteAt 0 w)) else .error .bitsBeyondFormat
  else if nbits = 15 ∨ nbits = 16 then
    if w < 2 ^ 15 then .ok (.cmd (BitVec.ofNat 15 w)) else .error .bitsBeyondFormat
  else if nbits = 32 then
    if w < 2 ^ 32 then .ok (.msg (w >>> 24) (byteAt 2 w) (byteAt 1 w) (byteAt 0 w)) else .error .bitsBeyondFormat
  else if nbits = 8 then
    if w = 0 then .error .nothingRequested
    else if w = 1 then .ok .pull
    else if w = 2 ∨ w = 3 then .ok .rst
    else .error .bitsBeyondFormat
  else .error .unknownWidth

/-- The width and number of what is presented, in the numbering of `presentedOfWord`. -/
def wordOfPresented : Presented → Nat × Nat
  | .msg len b0 b1 b2 =>
    if len = 3 then (24, (messageWord b0 b1 b2).toNat)
    else (32, len * 2 ^ 24 + (messageWord b0 b1 b2).toNat)
  | .cmd w => (16, w.toNat)
  | .pull => (8, 1)
  | .rst => (8, 2)

/-- The decoder on a numbered word, its refusals by name. -/
def decodeWord (nbits w : Nat) : Except WordError Instr :=
  match presentedOfWord nbits w with
  | .ok p => .ok (decode p)
  | .error e => .error e

/-- The operation the decoder reads from the word `w` of `nbits` bits, numbered as opcode_table.json numbers it. -/
def decodeTableWord (nbits w : Nat) : Option Instr :=
  match decodeWord nbits w with
  | .ok i => some i
  | .error _ => none

/-- The width and number of an operation's word. -/
def encodeWord (i : Instr) : Nat × Nat := wordOfPresented (encode i)

end Sys2Proof
end

