-- ==== Sys2Proof/Config.lean ====
section
/-! DEFINITION. What an instance fixes at construction (00_scope.md R9, 10_state.md R31), and the free values. -/

namespace Sys2Proof

/-- The numeric construction-time parameters (00_scope.md R9). -/
structure Params where
  /-- `N`, the wave-table length in entries. -/
  n : Nat
  /-- `FS`, the sample rate in Hz. -/
  fs : Nat
  /-- `CAP`, the channel capacity in commands. -/
  cap : Nat
  /-- `F`, the fraction bits of phase and increment. -/
  f : Nat
  /-- `IW`, the width of the increment register. -/
  iw : Nat
  /-- `SW`, the width of a table entry and of a sample. -/
  sw : Nat
  /-- `SF`, the fraction bits of a table entry and of a sample. -/
  sf : Nat
  /-- `LW`, the width of the message-length field. -/
  lw : Nat
  deriving DecidableEq, Repr

/-- The constants of an instance: the parameters and the contents of the two read-only arrays (10_state.md R31,
20_memory.md R50). -/
structure Config extends Params where
  /-- `WT`, the table contents T[0..N−1]. -/
  table : List Int
  /-- `NTROM`, the note-increment ROM NT[0..127]. -/
  nt : List Nat
  deriving DecidableEq, Repr

/-- FREE VALUE: what a table read at an index outside the table answers. Every use of the spec stays inside (00_scope.md
R15); only a PHASE ≥ M reaches it, which 93_implementation_defined.md U11 treats as "any value" (log entry 4). -/
opaque Config.freeEntry : Nat → Int

/-- FREE VALUE: what a read outside the note-increment ROM answers. No 7-bit note reaches it (20_memory.md R52); only a
refused configuration, whose ROM is too short, does (log entry 4). -/
opaque Config.freeIncrement : Nat → Nat

end Sys2Proof
end

