-- ==== Sys2Proof/Machine/Arith.lean ====
section
/-! DEFINITION. The integer arithmetic primitives of 00_scope.md R13, and the exact integer root that evaluates the
note-increment formula of 41_oscillator.md R122 without real numbers. -/

namespace Sys2Proof.Machine

/-- `a div b`: floor division for b > 0 (R13). -/
def floorDiv (a : Int) (b : Nat) : Int := a / (b : Int)

/-- `a mod b`: the Euclidean remainder in [0, b) for b > 0 (R13). -/
def floorMod (a : Int) (b : Nat) : Nat := (a % (b : Int)).toNat

/-- `a >> k`: the arithmetic right shift, floor(a / 2^k) (R13). -/
def shiftRightFloor (a : Int) (k : Nat) : Int := floorDiv a (2 ^ k)

/-- `tdiv(a, b)`: division truncated toward zero (R13). -/
def tdiv (a b : Int) : Int := Int.tdiv a b

/-- `round_half_up(num / den)` = floor(num / den + 1/2) for den > 0 (R13). -/
def roundHalfUp (num : Int) (den : Nat) : Int := floorDiv (2 * num + den) (2 * den)

/-- `round_half_away(num / den)` = sign · floor(|num / den| + 1/2) for den > 0 (R13). -/
def roundHalfAway (num : Int) (den : Nat) : Int := num.sign * floorDiv (2 * (num.natAbs : Int) + den) (2 * den)

/-- `ceil(log2 k)` for k ≥ 1 (00_scope.md R10). -/
def ceilLog2 (k : Nat) : Nat := if k ≤ 1 then 0 else (k - 1).log2 + 1

/-- Builds the largest `r` with `r ^ 12 ≤ a` bit by bit, from bit `bits - 1` down. -/
def rootBits (a : Nat) : Nat → Nat → Nat
  | 0, acc => acc
  | bits + 1, acc => rootBits a bits (if (acc + 2 ^ bits) ^ 12 ≤ a then acc + 2 ^ bits else acc)

/-- The floor of the twelfth root of `a`. -/
def floorRoot12 (a : Nat) : Nat := rootBits a (a.log2 / 12 + 1) 0

end Sys2Proof.Machine
end

