-- ==== Sys2Proof/Machine/Params.lean ====
section
/-! DEFINITION. Constants derived from the parameters (00_scope.md R10), the contents of the note-increment ROM
(41_oscillator.md R122), and the default instance (00_scope.md R9, 40_wavetable.md R112, 41_oscillator.md R123). -/

namespace Sys2Proof.Machine

/-- `A = ceil(log2 N)`, the width of a table index (R10). -/
def indexWidth (p : Params) : Nat := ceilLog2 p.n

/-- `M = N · 2^F`, the modulus of the phase accumulator (R10). -/
def modulus (p : Params) : Nat := p.n * 2 ^ p.f

/-- `PW = A + F`, the width of the phase register (R10). -/
def phaseWidth (p : Params) : Nat := indexWidth p + p.f

/-- `CW = ceil(log2(CAP + 1))`, the width of the occupancy count (R10). -/
def countWidth (p : Params) : Nat := ceilLog2 (p.cap + 1)

/-- `NT[note]` = round_half_up(x) for x = 440 · 2^((note − 69)/12) · N · 2^F / FS (41_oscillator.md R122), exactly:
floor(x + 1/2) = (floor(2x) + 1) div 2, and (2x)^12 = (880 · N · 2^F)^12 · 2^note / (FS^12 · 2^69) is rational. -/
def ntEntry (p : Params) (note : Nat) : Nat :=
  (floorRoot12 ((880 * p.n * 2 ^ p.f) ^ 12 * 2 ^ note / (p.fs ^ 12 * 2 ^ 69)) + 1) / 2

/-- The contents of NTROM, NT[0] to NT[127] (41_oscillator.md R122). -/
def ntRom (p : Params) : List Nat := (List.range 128).map (ntEntry p)

/-- The default parameters (00_scope.md R9). -/
def defaultParams : Params :=
  { n := 64, fs := 44100, cap := 16, f := 16, iw := 32, sw := 24, sf := 22, lw := 8 }

/-- The default table, row by row (40_wavetable.md R112). -/
def defaultTable : List Int :=
  [0, 411114, 818268, 1217542, 1605091, 1977181, 2330230, 2660838] ++
  [2965821, 3242241, 3487436, 3699046, 3875032, 4013699, 4113712, 4174107] ++
  [4194304, 4174107, 4113712, 4013699, 3875032, 3699046, 3487436, 3242241] ++
  [2965821, 2660838, 2330230, 1977181, 1605091, 1217542, 818268, 411114] ++
  [0, -411114, -818268, -1217542, -1605091, -1977181, -2330230, -2660838] ++
  [-2965821, -3242241, -3487436, -3699046, -3875032, -4013699, -4113712, -4174107] ++
  [-4194304, -4174107, -4113712, -4013699, -3875032, -3699046, -3487436, -3242241] ++
  [-2965821, -2660838, -2330230, -1977181, -1605091, -1217542, -818268, -411114]

/-- The default note-increment ROM, row by row (41_oscillator.md R123). -/
def defaultNt : List Nat :=
  [778, 824, 873, 925, 980, 1038, 1100, 1165] ++
  [1234, 1308, 1386, 1468, 1555, 1648, 1746, 1849] ++
  [1959, 2076, 2199, 2330, 2469, 2615, 2771, 2936] ++
  [3110, 3295, 3491, 3699, 3919, 4152, 4399, 4660] ++
  [4937, 5231, 5542, 5872, 6221, 6591, 6983, 7398] ++
  [7838, 8304, 8797, 9321, 9875, 10462, 11084, 11743] ++
  [12441, 13181, 13965, 14795, 15675, 16607, 17595, 18641] ++
  [19750, 20924, 22168, 23486, 24883, 26363, 27930, 29591] ++
  [31351, 33215, 35190, 37282, 39499, 41848, 44336, 46973] ++
  [49766, 52725, 55860, 59182, 62701, 66429, 70380, 74565] ++
  [78998, 83696, 88673, 93945, 99532, 105450, 111721, 118364] ++
  [125402, 132859, 140759, 149129, 157997, 167392, 177345, 187891] ++
  [199063, 210900, 223441, 236728, 250804, 265718, 281518, 298258] ++
  [315993, 334783, 354691, 375782, 398127, 421801, 446882, 473455] ++
  [501608, 531436, 563036, 596516, 631987, 669567, 709381, 751563] ++
  [796254, 843601, 893765, 946911, 1003217, 1062871, 1126073, 1193033]

/-- The default instance. -/
def defaultConfig : Config := { toParams := defaultParams, table := defaultTable, nt := defaultNt }

end Sys2Proof.Machine
end

