-- ==== Sys2Proof/Machine/State.lean ====
section
/-! DEFINITION. The state of the machine (10_state.md), the input pins of one clock edge (30_encoding.md R89), the
reasons a step could stop, and the state after reset. -/

namespace Sys2Proof.Machine

/-- A message on the message port (30_encoding.md R81, R89): `msg_len`, `msg_b0`, `msg_b1`, `msg_b2`. -/
structure Message where
  len : Nat
  b0 : Byte
  b1 : Byte
  b2 : Byte
  deriving DecidableEq, Repr

/-- The input pins at one rising edge of `clk` (30_encoding.md R89): `rst`, `smp_req`, and the message where `msg_valid`
is 1. -/
structure Edge where
  rst : Bool
  smpReq : Bool
  msg : Option Message
  deriving DecidableEq, Repr

/-- The whole machine. The first six fields below `cfg` are the spec's state (10_state.md R20, 70_reset_and_hazards.md
R231); `cfg` holds the constants of the instance, which no step writes (R31, log entry 1); the last two fields are the
model's own (log entries 2 and 3). -/
structure State where
  /-- The parameters, WT and NTROM (10_state.md R31). -/
  cfg : Config
  /-- `PHASE`, an integer of PW bits below M (10_state.md R24, R25). -/
  phase : Nat
  /-- `INC`, an integer of IW bits (10_state.md R26). -/
  inc : Nat
  /-- `GAIN`, a code of 7 bits (10_state.md R27). -/
  gain : Data7
  /-- `FIFO`, the command channel, oldest word first (10_state.md R29). -/
  fifo : List Cmd
  /-- `OUT`, a signed integer of SW bits (10_state.md R30). -/
  out : Int
  /-- `smp_valid` (30_encoding.md R89, 70_reset_and_hazards.md R231). -/
  smpValid : Bool
  /-- MODEL's own: what the environment puts on the input pins at the coming edges, the next edge first. -/
  pending : List Edge
  /-- MODEL's own: a command word presented to the apply stage by itself; no step writes one here. -/
  applyLatch : Option Cmd
  deriving DecidableEq, Repr

/-- Reasons to stop with a fault. There is none: no step of WTOSC raises an exception, traps, faults or halts
(60_exceptions.md R190, R195). -/
inductive Fault where
  deriving DecidableEq, Repr

/-- Reasons to refuse an operation. -/
inductive Refusal where
  /-- Raised by an arm of `exec` whose operation has no meaning yet; no arm raises it (safe: it stops the machine). -/
  | notModelled (mnemonic : String)
  deriving DecidableEq, Repr

/-- The state after reset of an instance (10_state.md R35; `smp_valid` by 70_reset_and_hazards.md R231), with nothing
presented at any port. -/
def State.resetOf (cfg : Config) : State :=
  { cfg := cfg, phase := 0, inc := 0, gain := 0#7, fifo := [], out := 0, smpValid := false,
    pending := [], applyLatch := none }

/-- The machine right after reset, at the default parameters (10_state.md R35, 00_scope.md R9). -/
def State.reset : State := State.resetOf defaultConfig

end Sys2Proof.Machine
end

