-- ==== Sys2Proof/Machine/Ops.lean ====
section
/-! DEFINITION. The named operations over the arrays and registers (00_scope.md R15): reads of WT and NTROM, push and
drain of the FIFO, writes of PHASE, INC, GAIN and OUT. Taking an exception and returning from one have no operation:
there is no trap entry and no trap return (60_exceptions.md R195). -/

namespace Sys2Proof.Machine

/-- The outcome of an operation or of a step. -/
abbrev Result := Host.Outcome State Fault Refusal

/-- Applies a change of state to an outcome that is a next state. -/
def mapNext (change : State → State) : Result → Result
  | .next s => .next (change s)
  | .fault r => .fault r
  | .refused r => .refused r

/-- `MemRead(WT, i)` = T[i] (20_memory.md R51); outside the table a free value. -/
def memReadWT (c : Config) (i : Nat) : Int := c.table[i]?.getD (Config.freeEntry i)

/-- `MemRead(NTROM, n)` = NT[n] (20_memory.md R52). -/
def memReadNT (c : Config) (note : Data7) : Nat := c.nt[note.toNat]?.getD (Config.freeIncrement note.toNat)

/-- The sequence after `Push(FIFO, c)` on a channel of capacity `cap`: a full channel first loses its oldest entry
(42_command_mapper.md R156). -/
def pushWord (cap : Nat) (fifo : List Cmd) (c : Cmd) : List Cmd :=
  (if fifo.length = cap then fifo.tail else fifo) ++ [c]

/-- `Push(FIFO, c)` (42_command_mapper.md R156). -/
def push (c : Cmd) (s : State) : State := { s with fifo := pushWord s.cfg.cap s.fifo c }

/-- The state that `DrainAll(FIFO)` leaves: FIFO empty (43_render_loop.md R171). The words drained are `s.fifo`. -/
def drained (s : State) : State := { s with fifo := [] }

/-- `PHASE <- 0` (43_render_loop.md R172). -/
def resetPhase (s : State) : State := { s with phase := 0 }

/-- `SET_FREQ(n)`: `INC <- MemRead(NTROM, n)` (41_oscillator.md R121). -/
def setFreq (note : Data7) (s : State) : State := { s with inc := memReadNT s.cfg note }

/-- `SET_GAIN(g)`: `GAIN <- g`, with no clamp (41_oscillator.md R126, 10_state.md R28). -/
def setGain (g : Data7) (s : State) : State := { s with gain := g }

/-- `OUT <- S` (41_oscillator.md R128). -/
def setOut (v : Int) (s : State) : State := { s with out := v }

/-- `PHASE <- p` (41_oscillator.md R131). -/
def setPhase (p : Nat) (s : State) : State := { s with phase := p }

/-- The five state elements at their reset values (70_reset_and_hazards.md R221, 10_state.md R35). -/
def clearAll (s : State) : State := { s with phase := 0, inc := 0, gain := 0#7, fifo := [], out := 0 }

/-- Sets the output flag `smp_valid` (70_reset_and_hazards.md R231). -/
def setSmpValid (v : Bool) (s : State) : State := { s with smpValid := v }

end Sys2Proof.Machine
end

