-- ==== Sys2Proof/Machine/Mapper.lean ====
section
/-! DEFINITION. The MIDI command mapper: the meanings of the message operations (42_command_mapper.md). Each is the
input agent's accept step (R150) on a message its row selects; it writes only FIFO. -/

namespace Sys2Proof.Machine

/-- `Decode(len, b0, b1, b2)` as 42_command_mapper.md R151 writes it: the command word of a message, or NONE. The
machine itself runs the decoder of Decode.lean and the meanings below; that the two agree is a statement. -/
def commandOf (len : Nat) (b0 b1 b2 : Byte) : Option Cmd :=
  if len ≠ 3 then none
  else if highBit b0 = false then none
  else if kindOf b0 ≠ kindNoteOff ∧ kindOf b0 ≠ kindNoteOn then none
  else if highBit b1 = true ∨ highBit b2 = true then none
  else if kindOf b0 = kindNoteOn ∧ dataOf b2 ≠ 0#7 then some (noteOnWord (dataOf b1) (dataOf b2))
  else some (noteOffWord (dataOf b1))

/-- An ignored message: no operation (R155). -/
def ignore (s : State) : Result := .next s

/-- `MSG_NOTE_ON`: `Push(FIFO, 0x4000 + 128*n + v)` (R152). -/
def execMsgNoteOn (note vel : Data7) (s : State) : Result := .next (push (noteOnWord note vel) s)

/-- `MSG_NOTE_ON_V0`: `Push(FIFO, 128*n)` (R153). -/
def execMsgNoteOnV0 (note : Data7) (s : State) : Result := .next (push (noteOffWord note) s)

/-- `MSG_NOTE_OFF`: `Push(FIFO, 128*n)` (R154). -/
def execMsgNoteOff (note : Data7) (s : State) : Result := .next (push (noteOffWord note) s)

/-- Class LEN (R155). -/
def execMsgIgnLen (s : State) : Result := ignore s

/-- Class NOSTATUS (R155). -/
def execMsgIgnNoStatus (s : State) : Result := ignore s

/-- Class STATUS, KIND 0xA or 0xB (R155). -/
def execMsgIgnStatusAB (s : State) : Result := ignore s

/-- Class STATUS, KIND 0xC to 0xF (R155). -/
def execMsgIgnStatusCF (s : State) : Result := ignore s

/-- Class DATA, b1[7] = 1 (R155). -/
def execMsgIgnDataB1 (s : State) : Result := ignore s

/-- Class DATA, b2[7] = 1 (R155). -/
def execMsgIgnDataB2 (s : State) : Result := ignore s

end Sys2Proof.Machine
end

