-- ==== Sys2Proof/Machine/Wavetable.lean ====
section
/-! DEFINITION. The WaveTable (40_wavetable.md): construction, length and the one read primitive. -/

namespace Sys2Proof.Machine

/-- `length()` (R114). -/
def tableLength (c : Config) : Nat := c.n

/-- `value_at(k)` for any integer k: the entry at k mod N (R115). -/
def valueAt (c : Config) (k : Int) : Int := memReadWT c (floorMod k c.n)

/-- Where the table contents come from (R110): given directly, or the reference values x_0 … x_(N−1) of a generator,
each an exact fraction (numerator, denominator) (log entry 6). -/
inductive TableSource where
  | given (entries : List Int)
  | generated (values : List (Int × Nat))
  deriving DecidableEq, Repr

/-- Quantization of one reference value: round_half_away(x · 2^SF) (R111). -/
def quantize (sf : Nat) (x : Int × Nat) : Int := roundHalfAway (x.1 * 2 ^ sf) x.2

/-- `build(generator, N)`: the table contents (R110). -/
def buildTable (p : Params) : TableSource → List Int
  | .given entries => entries
  | .generated values => values.map (quantize p.sf)

end Sys2Proof.Machine
end

