-- ==== Sys2Proof/Machine/Oscillator.lean ====
section
/-! DEFINITION. Sample production (41_oscillator.md R128 to R131). -/

namespace Sys2Proof.Machine

/-- `i0 = PHASE[PW−1:F]`, the table index (10_state.md R24, R128). -/
def phaseIndex (c : Config) (phase : Nat) : Nat := phase / 2 ^ c.f

/-- `fr = PHASE[F−1:0]`, the fraction (10_state.md R24, R128). -/
def phaseFraction (c : Config) (phase : Nat) : Nat := phase % 2 ^ c.f

/-- `L = y0 + (((y1 − y0) · fr) >> F)` with y0 = T[i0] and y1 = T[(i0 + 1) mod N] (R128, R129). -/
def lerp (c : Config) (phase : Nat) : Int :=
  memReadWT c (phaseIndex c phase) +
    shiftRightFloor
      ((memReadWT c ((phaseIndex c phase + 1) % c.n) - memReadWT c (phaseIndex c phase)) * phaseFraction c phase) c.f

/-- `S = tdiv(L · GAIN, 127)` (R130). -/
def applyGain (level : Int) (gain : Data7) : Int := tdiv (level * gain.toNat) 127

/-- `(PHASE + INC) mod M` (R131). -/
def advance (c : Config) (phase inc : Nat) : Nat := (phase + inc) % modulus c.toParams

/-- The sample that NEXT_SAMPLE produces in a state (R128). -/
def sampleOf (s : State) : Int := applyGain (lerp s.cfg s.phase) s.gain

/-- `NEXT_SAMPLE`: OUT gets the sample at the phase from before the advance, then PHASE advances (R128). -/
def nextSample (s : State) : State :=
  setPhase (advance s.cfg s.phase s.inc) (setOut (sampleOf s) s)

end Sys2Proof.Machine
end

