-- ==== Sys2Proof/Machine/Render.lean ====
section
/-! DEFINITION. The render loop (43_render_loop.md): the two applies and the render step. -/

namespace Sys2Proof.Machine

/-- `APPLY_NOTE_ON`: PHASE ← 0, SET_FREQ(n), SET_GAIN(v) (R172). -/
def applyNoteOn (note vel : Data7) (s : State) : State := setGain vel (setFreq note (resetPhase s))

/-- `APPLY_NOTE_OFF`: SET_GAIN(0) (R173). -/
def applyNoteOff (s : State) : State := setGain 0#7 s

/-- The body of the render step's loop: one drained word, by its OP bit (R170). -/
def applyWord (s : State) (c : Cmd) : State :=
  if cmdIsOn c then applyNoteOn (cmdNote c) (cmdVel c) s else applyNoteOff s

/-- The loop: every word, oldest first (R170, R174). -/
def applyAll (words : List Cmd) (s : State) : State := words.foldl applyWord s

/-- `CMD_NOTE_ON` (R172). -/
def execCmdNoteOn (note vel : Data7) (s : State) : Result := .next (applyNoteOn note vel s)

/-- `CMD_NOTE_OFF`: neither field is used (R173). -/
def execCmdNoteOff (s : State) : Result := .next (applyNoteOff s)

/-- `SAMPLE`: drain, apply every drained word, produce one sample (R170). -/
def execSample (s : State) : Result := .next (nextSample (applyAll s.fifo (drained s)))

end Sys2Proof.Machine
end

