-- ==== Sys2Proof/Machine/ResetOp.lean ====
section
/-! DEFINITION. The RESET operation (70_reset_and_hazards.md R221). -/

namespace Sys2Proof.Machine

/-- `RESET`: the five state elements to their reset values; the configuration stays (R221). -/
def execReset (s : State) : Result := .next (clearAll s)

end Sys2Proof.Machine
end

