-- ==== Sys2Proof/Machine/Dispatch.lean ====
section
/-! DEFINITION. The dispatch of an operation to its meaning, one arm per constructor. -/

namespace Sys2Proof.Machine

def exec (i : Instr) (s : State) : Host.Outcome State Fault Refusal :=
  match i with
  | .msgNoteOn _ note vel => Sys2Proof.Machine.execMsgNoteOn note vel s
  | .msgNoteOnV0 _ note => Sys2Proof.Machine.execMsgNoteOnV0 note s
  | .msgNoteOff _ note _ => Sys2Proof.Machine.execMsgNoteOff note s
  | .msgIgnLen _ _ _ _ => Sys2Proof.Machine.execMsgIgnLen s
  | .msgIgnNoStatus _ _ _ => Sys2Proof.Machine.execMsgIgnNoStatus s
  | .msgIgnStatusAB _ _ _ => Sys2Proof.Machine.execMsgIgnStatusAB s
  | .msgIgnStatusCF _ _ _ => Sys2Proof.Machine.execMsgIgnStatusCF s
  | .msgIgnDataB1 _ _ _ => Sys2Proof.Machine.execMsgIgnDataB1 s
  | .msgIgnDataB2 _ _ _ => Sys2Proof.Machine.execMsgIgnDataB2 s
  | .cmdNoteOn note vel => Sys2Proof.Machine.execCmdNoteOn note vel s
  | .cmdNoteOff _ _ => Sys2Proof.Machine.execCmdNoteOff s
  | .sample => Sys2Proof.Machine.execSample s
  | .reset => Sys2Proof.Machine.execReset s

end Sys2Proof.Machine
end

