-- ==== Sys2Proof/Machine/Flags.lean ====
section
/-! DEFINITION. WTOSC has no status flags, condition codes or predicates, and no step sets a flag (10_state.md R23). The
one status output is `smp_valid` (30_encoding.md R89); this file says what it becomes. -/

namespace Sys2Proof.Machine

/-- `smp_valid` after an edge: 0 where `rst` = 1, else `smp_req` (70_reset_and_hazards.md R231). -/
def smpValidAfter (e : Edge) : Bool := if e.rst then false else e.smpReq

end Sys2Proof.Machine
end

