-- ==== Sys2Proof/Machine/Cycle.lean ====
section
/-! DEFINITION. The cycle-level binding (70_reset_and_hazards.md R231): which operations one rising edge presents and in
what order they run, and how an operation is put before the machine. -/

namespace Sys2Proof.Machine

/-- What an edge presents, in the order it runs: with `rst` the reset alone, else the pull before the message (R231,
60_exceptions.md R194). -/
def presentedAt (e : Edge) : List Presented :=
  if e.rst then [.rst]
  else (if e.smpReq then [.pull] else []) ++
    (match e.msg with
     | some m => [.msg m.len m.b0 m.b1 m.b2]
     | none => [])

/-- Runs operations one after another. -/
def runOps : List Instr → State → Result
  | [], s => .next s
  | i :: rest, s =>
    match exec i s with
    | .next t => runOps rest t
    | .fault r => .fault r
    | .refused r => .refused r

/-- One rising edge: its operations in order, then `smp_valid` (R231). -/
def clockEdge (e : Edge) (s : State) : Result :=
  mapNext (setSmpValid (smpValidAfter e)) (runOps ((presentedAt e).map decode) s)

/-- An edge at which nothing is presented: all state stays and `smp_valid` is 0 (R231, R232; 60_exceptions.md R202). -/
def idleEdge (s : State) : Result := .next (setSmpValid false s)

/-- The schedule with its first edge taken off. -/
def setPending (rest : List Edge) (s : State) : State := { s with pending := rest }

/-- The apply latch emptied. -/
def clearLatch (s : State) : State := { s with applyLatch := none }

/-- One command word applied by itself, as its row of the table has it (log entry 3). No sample is pulled, so `smp_valid`
is 0 after it. -/
def applyLatched (w : Cmd) (s : State) : Result :=
  mapNext (setSmpValid false) (exec (decode (.cmd w)) (clearLatch s))

/-- Puts something presented before the machine, so that the next step runs it: a message, a pull or a reset as an edge
of its own ahead of the schedule, a command word in the apply latch. -/
def present (p : Presented) (s : State) : State :=
  match p with
  | .msg len b0 b1 b2 =>
    setPending ({ rst := false, smpReq := false, msg := some ⟨len, b0, b1, b2⟩ } :: s.pending) (clearLatch s)
  | .cmd w => { s with applyLatch := some w }
  | .pull => setPending ({ rst := false, smpReq := true, msg := none } :: s.pending) (clearLatch s)
  | .rst => setPending ({ rst := true, smpReq := false, msg := none } :: s.pending) (clearLatch s)

end Sys2Proof.Machine
end

