-- ==== Sys2Proof/Machine/Step.lean ====
section
/-! DEFINITION. One step of the machine: one rising edge of the clock (70_reset_and_hazards.md R231), taken from the
schedule of the environment. -/

namespace Sys2Proof.Machine

/-- One step. A command word in the apply latch runs first (never set by the machine); else the next edge of the schedule
runs; with no edge left, the pins are idle. -/
def step (s : State) : Host.Outcome State Fault Refusal :=
  match s.applyLatch with
  | some w => applyLatched w s
  | none =>
    match s.pending with
    | [] => idleEdge s
    | e :: rest => clockEdge e (setPending rest s)

/-- The state in which the next step runs the operation of the word `w` (numbered as `presentedOfWord` says); a number
that is no operation's word changes nothing. -/
def State.withFetchWord (s : State) (nbits w : Nat) : State :=
  match presentedOfWord nbits w with
  | .ok p => present p s
  | .error _ => s

end Sys2Proof.Machine
end

