-- ==== Sys2Proof/Machine/Ports.lean ====
section
/-! DEFINITION. The output ports (30_encoding.md R89, R90, R91; 10_state.md R32): functions of the state, so a read has
no side effect (20_memory.md R58). -/

namespace Sys2Proof.Machine

/-- `smp_valid` (R89). -/
def smpValidPort (s : State) : Bool := s.smpValid

/-- `smp_data`: OUT as a signed SW-bit word (R89, R90). -/
def smpData (s : State) : BitVec s.cfg.sw := BitVec.ofInt s.cfg.sw s.out

/-- `dbg_phase`: PHASE as a PW-bit word (10_state.md R32). -/
def dbgPhase (s : State) : BitVec (phaseWidth s.cfg.toParams) := BitVec.ofNat _ s.phase

/-- `dbg_inc`: INC as an IW-bit word (10_state.md R32). -/
def dbgInc (s : State) : BitVec s.cfg.iw := BitVec.ofNat _ s.inc

/-- `dbg_gain`: GAIN (10_state.md R32). -/
def dbgGain (s : State) : Data7 := s.gain

/-- `dbg_count`: the number of entries in FIFO as a CW-bit word (10_state.md R32). -/
def dbgCount (s : State) : BitVec (countWidth s.cfg.toParams) := BitVec.ofNat _ s.fifo.length

end Sys2Proof.Machine
end

