-- ==== Sys2Proof/Reference.lean ====
section
/-! DEFINITION. The source's real-valued formulas (00_scope.md R16): what the fixed-point datapath approximates, and not
the hardware's semantics. Only statements use them. -/

namespace Sys2Proof.Reference

open Sys2Proof.Machine

/-- f = 440 · 2^((note − 69) / 12) (R16, 41_oscillator.md R120). -/
noncomputable def noteFrequency (note : Nat) : ℝ := 440 * (2 : ℝ) ^ (((note : ℝ) - 69) / 12)

/-- phase_increment = f · N / sample_rate, in table steps per sample (R16, R120). -/
noncomputable def incRef (p : Params) (note : Nat) : ℝ := noteFrequency note * p.n / p.fs

/-- The fundamental f_out = INC · FS / (N · 2^F) of the output at a fixed increment (41_oscillator.md R133). -/
noncomputable def outputFrequency (p : Params) (inc : Nat) : ℝ := inc * p.fs / (p.n * 2 ^ p.f)

/-- round_half_away over ℝ (00_scope.md R13). -/
noncomputable def roundHalfAwayReal (x : ℝ) : ℤ := if 0 ≤ x then ⌊x + 1 / 2⌋ else -⌊-x + 1 / 2⌋

/-- A table that quantizes reference values x_0 … x_(N−1) (40_wavetable.md R110, R111). -/
def Quantizes (c : Config) (x : Nat → ℝ) : Prop :=
  c.table.length = c.n ∧ ∀ i < c.n, memReadWT c i = roundHalfAwayReal (x i * 2 ^ c.sf)

/-- The reference values of the sine generator, sin(2π·i/N) (40_wavetable.md R110, R112). -/
noncomputable def sineValue (n i : Nat) : ℝ := Real.sin (2 * Real.pi * i / n)

/-- The source's real-valued interpolation at a real phase of 0 or more, between value_at(floor(phase)) and
value_at((floor(phase) + 1) mod N), weighted by the fractional part (41_oscillator.md R129, R136). -/
noncomputable def lerpRef (n : Nat) (x : Nat → ℝ) (phase : ℝ) : ℝ :=
  x ⌊phase⌋₊ + (x ((⌊phase⌋₊ + 1) % n) - x ⌊phase⌋₊) * Int.fract phase

/-- The reference sample 2^SF · (GAIN/127) · lerp_ref(PHASE / 2^F) (41_oscillator.md R136). -/
noncomputable def sampleRef (s : State) (x : Nat → ℝ) : ℝ :=
  2 ^ s.cfg.sf * ((s.gain.toNat : ℝ) / 127) * lerpRef s.cfg.n x ((s.phase : ℝ) / 2 ^ s.cfg.f)

end Sys2Proof.Reference
end

