-- ==== Sys2Proof/Machine/Construct.lean ====
section
/-! DEFINITION. Construction of an instance (70_reset_and_hazards.md R223) and its refusals (00_scope.md R11,
60_exceptions.md R191): the constraints of 00_scope.md R9, checked in the order of R223. -/

namespace Sys2Proof

/-- The range of a signed SW-bit value (00_scope.md R9, R12). -/
abbrev SampleInRange (sw : Nat) (x : Int) : Prop := -(2 ^ (sw - 1)) ≤ x ∧ x ≤ 2 ^ (sw - 1) - 1

/-- The constraints of 00_scope.md R9 on the numeric parameters. -/
abbrev Params.Ok (p : Params) : Prop :=
  2 ≤ p.n ∧ p.n ≤ 65536 ∧ 1 ≤ p.fs ∧ 1 ≤ p.cap ∧ 1 ≤ p.f ∧ p.f ≤ 32 ∧ 1 ≤ p.iw ∧ 2 ≤ p.sw ∧ p.sw ≤ 32 ∧
    p.sf ≤ p.sw - 1 ∧ 2 ≤ p.lw

/-- A configuration that passes every check: the well-formedness of the configuration record (60_exceptions.md R191). -/
abbrev Config.Wf (c : Config) : Prop :=
  c.toParams.Ok ∧ c.table.length = c.n ∧ (∀ x ∈ c.table, SampleInRange c.sw x) ∧
    c.nt = Machine.ntRom c.toParams ∧ (∀ x ∈ c.nt, x < 2 ^ c.iw)

end Sys2Proof

namespace Sys2Proof.Machine

/-- Why a construction is refused: a configuration error (00_scope.md R17, R11; 60_exceptions.md R192). -/
inductive ConfigError where
  /-- N < 2 (40_wavetable.md R113). -/
  | tableTooShort
  /-- N > 65536. -/
  | tableTooLong
  /-- FS < 1. -/
  | sampleRate
  /-- CAP < 1. -/
  | capacity
  /-- F outside 1 to 32. -/
  | fractionBits
  /-- IW < 1. -/
  | incrementWidth
  /-- SW outside 2 to 32. -/
  | sampleWidth
  /-- SF > SW − 1. -/
  | sampleFraction
  /-- LW < 2. -/
  | lengthWidth
  /-- The table source has not N entries, or a reference value is no number. -/
  | tableSource
  /-- A table entry outside the signed SW-bit range (40_wavetable.md R111). -/
  | tableEntry
  /-- An NT entry of 2^IW or more (41_oscillator.md R122). -/
  | noteIncrement
  deriving DecidableEq, Repr

/-- The first constraint on the numeric parameters that fails (R223 step 2). -/
def paramsProblem (p : Params) : Option ConfigError :=
  if p.n < 2 then some .tableTooShort
  else if 65536 < p.n then some .tableTooLong
  else if p.fs < 1 then some .sampleRate
  else if p.cap < 1 then some .capacity
  else if p.f < 1 ∨ 32 < p.f then some .fractionBits
  else if p.iw < 1 then some .incrementWidth
  else if p.sw < 2 ∨ 32 < p.sw then some .sampleWidth
  else if p.sw - 1 < p.sf then some .sampleFraction
  else if p.lw < 2 then some .lengthWidth
  else none

/-- What is wrong with the table built for the parameters (R223 step 3). -/
def tableProblem (p : Params) (table : List Int) : Option ConfigError :=
  if table.length ≠ p.n then some .tableSource
  else if ∃ x ∈ table, ¬ SampleInRange p.sw x then some .tableEntry
  else none

/-- What is wrong with the note-increment ROM (R223 step 4). -/
def ntProblem (p : Params) (nt : List Nat) : Option ConfigError :=
  if ∃ x ∈ nt, 2 ^ p.iw ≤ x then some .noteIncrement else none

/-- Whether the reference values of a source are numbers. -/
def sourceIsOk : TableSource → Bool
  | .given _ => true
  | .generated values => values.all (fun x => decide (0 < x.2))

/-- Construction in the order of R223: check the parameters, build and check WT, build and check NTROM, apply reset. A
refusal leaves no instance. -/
def construct (p : Params) (src : TableSource) : Except ConfigError State :=
  match paramsProblem p with
  | some e => .error e
  | none =>
    if sourceIsOk src = false then .error .tableSource
    else
      match tableProblem p (buildTable p src) with
      | some e => .error e
      | none =>
        match ntProblem p (ntRom p) with
        | some e => .error e
        | none => .ok (State.resetOf { toParams := p, table := buildTable p src, nt := ntRom p })

end Sys2Proof.Machine
end

