-- ==== Sys2Proof/Machine/Script.lean ====
section
/-! DEFINITION. The lines of a test program and the pseudo-operations (30_encoding.md R92, R93), as the clock edges each
stands for. -/

namespace Sys2Proof.Machine

/-- One line (R92), pseudo-operations included (R93). -/
inductive Line where
  /-- `MSG b0, b1, b2`. -/
  | msg (b0 b1 b2 : Byte)
  /-- `MSGL len, b0, b1, b2`. -/
  | msgl (len : Nat) (b0 b1 b2 : Byte)
  /-- `SAMPLE ×k`; `SAMPLE` is k = 1. -/
  | sample (k : Nat)
  /-- `RESET`. -/
  | reset
  /-- `NOTEON n, v`. -/
  | noteOn (n v : Data7)
  /-- `NOTEOFF n`. -/
  | noteOff (n : Data7)
  /-- `NOTEOFF n, r`. -/
  | noteOffRel (n r : Data7)
  deriving DecidableEq, Repr

/-- An edge that presents one message and nothing else. -/
def messageEdge (len : Nat) (b0 b1 b2 : Byte) : Edge :=
  { rst := false, smpReq := false, msg := some ⟨len, b0, b1, b2⟩ }

/-- An edge that pulls one sample and does nothing else. -/
def pullEdge : Edge := { rst := false, smpReq := true, msg := none }

/-- An edge that resets. -/
def resetEdge : Edge := { rst := true, smpReq := false, msg := none }

/-- The plain line a pseudo-operation expands to (R93). -/
def expandLine : Line → Line
  | .noteOn n v => .msg 0x90#8 (dataByte n) (dataByte v)
  | .noteOff n => .msg 0x80#8 (dataByte n) 0x00#8
  | .noteOffRel n r => .msg 0x80#8 (dataByte n) (dataByte r)
  | .msg b0 b1 b2 => .msg b0 b1 b2
  | .msgl len b0 b1 b2 => .msgl len b0 b1 b2
  | .sample k => .sample k
  | .reset => .reset

/-- The edges of a line, each one step of the transaction-level model (R92). -/
def lineEdges (l : Line) : List Edge :=
  match expandLine l with
  | .msg b0 b1 b2 => [messageEdge 3 b0 b1 b2]
  | .msgl len b0 b1 b2 => [messageEdge len b0 b1 b2]
  | .sample k => List.replicate k pullEdge
  | .reset => [resetEdge]
  | .noteOn _ _ => []
  | .noteOff _ => []
  | .noteOffRel _ _ => []

/-- A program put before the machine: its lines in order, ahead of the schedule. -/
def loadScript (lines : List Line) (s : State) : State :=
  { s with pending := lines.flatMap lineEdges ++ s.pending }

end Sys2Proof.Machine
end

