-- ==== Sys2Proof/Safety.lean ====
section
/-! DEFINITION. The vocabulary of claims: the states the spec allows (10_state.md), and the observation of a run
(60_exceptions.md R203). -/

namespace Sys2Proof.Machine

/-- The states of 10_state.md: a configuration that passes its checks (R31, 60_exceptions.md R191), PHASE below M (R25), INC
of IW bits (R26), at most CAP legal command words in FIFO (R29, 30_encoding.md R88), OUT of SW bits (R30). -/
abbrev State.Wf (s : State) : Prop :=
  s.cfg.Wf ∧ s.phase < modulus s.cfg.toParams ∧ s.inc < 2 ^ s.cfg.iw ∧ s.fifo.length ≤ s.cfg.cap ∧
    (∀ c ∈ s.fifo, cmdLegal c = true) ∧ SampleInRange s.cfg.sw s.out

/-- The samples that the next `k` steps put out, in order: OUT after each step that pulled (70_reset_and_hazards.md R232,
43_render_loop.md R177). -/
def observe : Nat → State → List Int
  | 0, _ => []
  | k + 1, s =>
    match step s with
    | .next t => (if t.smpValid then [t.out] else []) ++ observe k t
    | .fault _ => []
    | .refused _ => []

/-- The state after `k` steps, if every one of them answers a next state. -/
def stateAfter (k : Nat) (s : State) : Option State :=
  match Host.Core.run Sys2Proof.core k s with
  | .next t => some t
  | .fault _ => none
  | .refused _ => none

/-- `k` render steps in a row with no message between (30_encoding.md R92, `SAMPLE ×k`). -/
def sampleTimes : Nat → State → Result
  | 0, s => .next s
  | k + 1, s =>
    match exec .sample s with
    | .next t => sampleTimes k t
    | .fault r => .fault r
    | .refused r => .refused r

/-- The accept steps of a list of messages, one after another (42_command_mapper.md R150). -/
def acceptAll : List Message → State → Result
  | [], s => .next s
  | m :: rest, s =>
    match exec (decode (.msg m.len m.b0 m.b1 m.b2)) s with
    | .next t => acceptAll rest t
    | .fault r => .fault r
    | .refused r => .refused r

/-- The edge coming next: the head of the schedule, where the machine takes its step from it. -/
def comingEdge (s : State) : Option Edge :=
  match s.applyLatch with
  | some _ => none
  | none => s.pending.head?

/-- Whether the coming step is a render step whose drain ends with a NoteOn word (43_render_loop.md R178). -/
def drainsToNoteOn (s : State) : Bool :=
  match comingEdge s with
  | some e => !e.rst && e.smpReq && (match s.fifo.getLast? with | some c => cmdIsOn c | none => false)
  | none => false

/-- The word of the last NoteOn of a drain, if it has one (43_render_loop.md R175). -/
def lastNoteOn (words : List Cmd) : Option Cmd := (words.filter cmdIsOn).getLast?

/-- The largest table slope D = max over i of |T[(i+1) mod N] − T[i]| (41_oscillator.md R135). -/
def maxSlope (c : Config) : Nat :=
  ((List.range c.n).map (fun i =>
    (memReadWT c ((i + 1) % c.n) - memReadWT c i).natAbs)).foldr max 0

/-- The largest magnitude of a table entry, max over i of |T[i]| (41_oscillator.md R132). -/
def maxEntry (c : Config) : Nat := (c.table.map Int.natAbs).foldr max 0

end Sys2Proof.Machine
end

