-- ==== Sys2Proof/Certificates/Slice0/Obligations.lean ====
section
/-! DEFINITION. The statements for the provers. Each docstring names the rule of spec/ it formalises. -/

open Sys2Proof Sys2Proof.Machine Sys2Proof.Reference

/-! ### Encodings -/

/-- 30_encoding.md R83, R85, R87: no bit of an encoding is lost. Encoding a well-formed operation gives something the
ports can carry, in the operation's own format, and decoding it gives the operation back. -/
def Obligations.DecodeOfEncodeIsTheInstruction : Prop :=
  ∀ (lw : Nat) (i : Instr), 2 ≤ lw → i.wf lw = true →
    decode (encode i) = i ∧ (encode i).fits lw = true ∧ (encode i).format = i.format

/-- 30_encoding.md R83 (the decoder is total), R85: whatever is presented decodes to an operation that is well formed and
encodes to exactly what was presented. -/
def Obligations.EncodeOfDecodeIsThePresentation : Prop :=
  ∀ (p : Presented), encode (decode p) = p ∧ ∀ lw, p.fits lw = true → (decode p).wf lw = true

/-- 30_encoding.md R94, R81, R87: through the bit numbers of the table as well, every well-formed operation's word decodes to
it. The 32-bit and 8-bit words of `encodeWord` are the model's own numbering (log entry 5). -/
def Obligations.TableWordsDecodeBack : Prop :=
  ∀ i : Instr, i.wf 8 = true → decodeTableWord (encodeWord i).1 (encodeWord i).2 = some i

/-- 30_encoding.md R83: the decode map by priority, as conditions on the bytes and as mask and match pairs over the 24-bit
word. -/
def Obligations.DecodeMapByPriorityAndMasks : Prop :=
  ∀ (len : Nat) (b0 b1 b2 : Byte),
    let i := decode (.msg len b0 b1 b2)
    let kind := b0.toNat / 16
    let w := messageWord b0 b1 b2
    (len ≠ 3 → i.priority = some 1) ∧
    (len = 3 → b0.toNat < 128 → i.priority = some 2) ∧
    (len = 3 → 128 ≤ b0.toNat → kind ≠ 8 → kind ≠ 9 → i.priority = some 3) ∧
    (len = 3 → (kind = 8 ∨ kind = 9) → (128 ≤ b1.toNat ∨ 128 ≤ b2.toNat) → i.priority = some 4) ∧
    (len = 3 → kind = 9 → b1.toNat < 128 → b2.toNat = 0 → i.priority = some 5) ∧
    (len = 3 → kind = 9 → b1.toNat < 128 → 0 < b2.toNat → b2.toNat < 128 → i.priority = some 6) ∧
    (len = 3 → kind = 8 → b1.toNat < 128 → b2.toNat < 128 → i.priority = some 7) ∧
    (len = 3 → w &&& 0xF080FF#24 = 0x900000#24 → i.priority = some 5) ∧
    (len = 3 → w &&& 0xF080FF#24 ≠ 0x900000#24 → w &&& 0xF08080#24 = 0x900000#24 → i.priority = some 6) ∧
    (len = 3 → w &&& 0xF08080#24 = 0x800000#24 → i.priority = some 7) ∧
    (len = 3 → w &&& 0xF08080#24 ≠ 0x900000#24 → w &&& 0xF08080#24 ≠ 0x800000#24 → i.ignored = true)

/-- 30_encoding.md R81, R85, R87; 95_test_vectors.md V-DEC: words written out bit by bit decode to the operations they
stand for. -/
def Obligations.WordsOfTheSpecDecode : Prop :=
  decodeTableWord 24 0b1001_0000_0100_0101_0111_1111 = some (.msgNoteOn 0x0#4 69#7 127#7) ∧
  decodeTableWord 24 0b1001_0101_0011_1100_0000_0000 = some (.msgNoteOnV0 0x5#4 60#7) ∧
  decodeTableWord 24 0b1000_1010_0111_1111_0111_1111 = some (.msgNoteOff 0xA#4 127#7 127#7) ∧
  decodeTableWord 24 0b0011_1100_0100_0000_0000_0000 = some (.msgIgnNoStatus 0x3C#8 0x40#8 0x00#8) ∧
  decodeTableWord 24 0b1011_0000_0000_0111_0110_0100 = some (.msgIgnStatusAB 0xB0#8 0x07#8 0x64#8) ∧
  decodeTableWord 24 0b1111_0000_0000_0000_0000_0000 = some (.msgIgnStatusCF 0xF0#8 0x00#8 0x00#8) ∧
  decodeTableWord 24 0b1001_0000_1000_0000_0100_0000 = some (.msgIgnDataB1 0x90#8 0x80#8 0x40#8) ∧
  decodeTableWord 24 0b1001_0000_0011_1100_1000_0000 = some (.msgIgnDataB2 0x90#8 0x3C#8 0x80#8) ∧
  decodeTableWord 16 0b101_1110_0110_0100 = some (.cmdNoteOn 60#7 100#7) ∧
  decodeTableWord 16 0b000_0110_0000_0000 = some (.cmdNoteOff 12#7 0#7)

/-- 30_encoding.md R87: the number of each command word, and its fields. -/
def Obligations.CommandWordLayout : Prop :=
  (∀ n v : Data7, (noteOnWord n v).toNat = 0x4000 + 128 * n.toNat + v.toNat ∧
      cmdIsOn (noteOnWord n v) = true ∧ cmdNote (noteOnWord n v) = n ∧ cmdVel (noteOnWord n v) = v) ∧
  (∀ n : Data7, (noteOffWord n).toNat = 128 * n.toNat ∧
      cmdIsOn (noteOffWord n) = false ∧ cmdNote (noteOffWord n) = n ∧ cmdVel (noteOffWord n) = 0#7) ∧
  (∀ c : Cmd, c.toNat = 0x4000 * (cmdIsOn c).toNat + 128 * (cmdNote c).toNat + (cmdVel c).toNat)

/-- 30_encoding.md R88, whole: the mapper produces legal words only, and every legal word; the apply is defined on the other
words too, a NoteOn with CVEL = 0 as a NoteOn with gain 0, a NoteOff whatever its CVEL. -/
def Obligations.MapperProducesTheLegalWords : Prop :=
  (∀ c : Cmd, cmdLegal c = true ↔ ∃ b0 b1 b2, commandOf 3 b0 b1 b2 = some c) ∧
  (∀ (len : Nat) (b0 b1 b2 : Byte) (c : Cmd), commandOf len b0 b1 b2 = some c →
    (cmdIsOn c = true → 1 ≤ (cmdVel c).toNat ∧ (cmdVel c).toNat ≤ 127) ∧ (cmdIsOn c = false → cmdVel c = 0#7)) ∧
  (∀ (n : Data7) (s : State),
    exec (decode (.cmd (noteOnWord n 0#7))) s =
      .next { s with phase := 0, inc := memReadNT s.cfg n, gain := 0#7 }) ∧
  (∀ (n v : Data7) (s : State), exec (decode (.cmd (cmdWord 0#1 n v))) s = .next { s with gain := 0#7 })

/-! ### Messages: the accept step -/

/-- 42_command_mapper.md R152 (MSG_NOTE_ON), whole: the encoding, the word pushed, nothing else written; the push evicts the
oldest entry of a full FIFO (R156); and the example. -/
def Obligations.NoteOnMessagePushesItsWord : Prop :=
  (∀ (c : Chan) (n v : Data7), v ≠ 0#7 →
      decode (.msg 3 (0x9#4 ++ c) (0#1 ++ n) (0#1 ++ v)) = .msgNoteOn c n v) ∧
  (∀ (c : Chan) (n v : Data7) (s : State),
      exec (.msgNoteOn c n v) s =
        .next { s with fifo := (if s.fifo.length = s.cfg.cap then s.fifo.tail else s.fifo) ++
                  [BitVec.ofNat 15 (0x4000 + 128 * n.toNat + v.toNat)] }) ∧
  exec (decode (.msg 3 0x90#8 69#8 127#8)) State.reset = .next { State.reset with fifo := [0x62FF#15] }

/-- 42_command_mapper.md R153 (MSG_NOTE_ON_V0), whole: a note-on with velocity 0 pushes the word a NoteOff pushes. -/
def Obligations.VelocityZeroPushesANoteOff : Prop :=
  (∀ (c : Chan) (n : Data7), decode (.msg 3 (0x9#4 ++ c) (0#1 ++ n) 0x00#8) = .msgNoteOnV0 c n) ∧
  (∀ (c : Chan) (n : Data7) (s : State),
      exec (.msgNoteOnV0 c n) s =
        .next { s with fifo := (if s.fifo.length = s.cfg.cap then s.fifo.tail else s.fifo) ++
                  [BitVec.ofNat 15 (128 * n.toNat)] }) ∧
  (∀ (c c' : Chan) (n r : Data7) (s : State), exec (.msgNoteOnV0 c n) s = exec (.msgNoteOff c' n r) s) ∧
  exec (decode (.msg 3 0x95#8 60#8 0#8)) State.reset = .next { State.reset with fifo := [0x1E00#15] }

/-- 42_command_mapper.md R154 (MSG_NOTE_OFF), whole: the release velocity is ignored, the note is carried,
and the next render step silences the voice whatever note sounds. -/
def Obligations.NoteOffMessagePushesItsWord : Prop :=
  (∀ (c : Chan) (n r : Data7), decode (.msg 3 (0x8#4 ++ c) (0#1 ++ n) (0#1 ++ r)) = .msgNoteOff c n r) ∧
  (∀ (c : Chan) (n r : Data7) (s : State),
      exec (.msgNoteOff c n r) s =
        .next { s with fifo := (if s.fifo.length = s.cfg.cap then s.fifo.tail else s.fifo) ++
                  [BitVec.ofNat 15 (128 * n.toNat)] }) ∧
  (∀ (c : Chan) (n r : Data7) (s : State), ∃ t u, exec (.msgNoteOff c n r) s = .next t ∧ exec .sample t = .next u ∧
      u.gain = 0#7 ∧ u.out = 0) ∧
  exec (decode (.msg 3 0x8A#8 127#8 127#8)) State.reset = .next { State.reset with fifo := [0x3F80#15] }

/-- 42_command_mapper.md R155 (MSG_IGNORED), whole: every message that R152 to R154 do not select changes nothing, also when
FIFO is full; so does every ignored operation; and the rule's own corner cases and example are such messages. -/
def Obligations.IgnoredMessagesChangeNothing : Prop :=
  (∀ (len : Nat) (b0 b1 b2 : Byte) (s : State),
      ¬ (len = 3 ∧ (b0.toNat / 16 = 8 ∨ b0.toNat / 16 = 9) ∧ b1.toNat < 128 ∧ b2.toNat < 128) →
      exec (decode (.msg len b0 b1 b2)) s = .next s) ∧
  (∀ (len : Nat) (b0 b1 b2 : Byte) (s : State),
      exec (.msgIgnLen len b0 b1 b2) s = .next s ∧ exec (.msgIgnNoStatus b0 b1 b2) s = .next s ∧
      exec (.msgIgnStatusAB b0 b1 b2) s = .next s ∧ exec (.msgIgnStatusCF b0 b1 b2) s = .next s ∧
      exec (.msgIgnDataB1 b0 b1 b2) s = .next s ∧ exec (.msgIgnDataB2 b0 b1 b2) s = .next s) ∧
  (∀ m ∈ ([⟨3, 0xB0#8, 7#8, 100#8⟩, ⟨3, 0xF0#8, 0#8, 0#8⟩, ⟨3, 0x3C#8, 0x40#8, 0x00#8⟩, ⟨3, 0x90#8, 0x80#8, 64#8⟩,
      ⟨2, 0x90#8, 60#8, 64#8⟩, ⟨4, 0x90#8, 60#8, 64#8⟩, ⟨3, 0xA0#8, 60#8, 64#8⟩] : List Message),
      (decode (.msg m.len m.b0 m.b1 m.b2)).ignored = true)

/-- 42_command_mapper.md R150, R151: the accept step is Decode, then Push if Decode is no NONE; it writes only FIFO. Decode
is R151's own text (`commandOf`), the machine runs the decode map of Decode.lean. -/
def Obligations.AcceptIsDecodeThenPush : Prop :=
  ∀ (len : Nat) (b0 b1 b2 : Byte) (s : State),
    exec (decode (.msg len b0 b1 b2)) s =
      .next (match commandOf len b0 b1 b2 with
        | none => s
        | some c => { s with fifo := (if s.fifo.length = s.cfg.cap then s.fifo.tail else s.fifo) ++ [c] })

/-- 42_command_mapper.md R157: the channel nibble is never examined. -/
def Obligations.ChannelNibbleIsNeverExamined : Prop :=
  ∀ (len : Nat) (kind : BitVec 4) (c c' : Chan) (b1 b2 : Byte) (s : State),
    exec (decode (.msg len (kind ++ c) b1 b2)) s = exec (decode (.msg len (kind ++ c') b1 b2)) s

/-- 42_command_mapper.md R156, whole, for each of the three pushing operations: a full channel first loses its oldest
entry, the new word stands at the tail, the length becomes min(k + 1, CAP), the newest command survives. -/
def Obligations.PushEvictsOnlyTheOldest : Prop :=
  ∀ (i : Instr) (s : State), i.priority.isSome = true → i.ignored = false →
    1 ≤ s.cfg.cap → s.fifo.length ≤ s.cfg.cap →
    ∃ t c, exec i s = .next t ∧
      t.fifo.length = min (s.fifo.length + 1) s.cfg.cap ∧
      t.fifo = (s.fifo ++ [c]).drop (s.fifo.length + 1 - s.cfg.cap) ∧
      t.fifo.getLast? = some c ∧ t = { s with fifo := t.fifo }

/-- 42_command_mapper.md R160: accepting messages with no render step between, from an empty FIFO, leaves exactly the last
CAP words pushed, in push order; and the rule's example with CAP = 4. -/
def Obligations.OverflowKeepsTheLatestCommands : Prop :=
  (∀ (ms : List Message) (s : State), 1 ≤ s.cfg.cap → s.fifo = [] →
    let words := ms.filterMap (fun m => commandOf m.len m.b0 m.b1 m.b2)
    acceptAll ms s = .next { s with fifo := words.drop (words.length - s.cfg.cap) }) ∧
  (let cfg4 : Config := { defaultConfig with cap := 4 }
   acceptAll ((List.range 9).map (fun k => ⟨3, 0x90#8, BitVec.ofNat 8 k, 1#8⟩)) (State.resetOf cfg4) =
    .next { State.resetOf cfg4 with fifo := [0x4281#15, 0x4301#15, 0x4381#15, 0x4401#15] })

/-! ### Commands: the applies -/

/-- 43_render_loop.md R172 (CMD_NOTE_ON), whole: PHASE ← 0, INC ← NT[n], GAIN ← v and nothing else, with n and v the fields
of the word; the ROM entry is that of 41_oscillator.md R122; and the example. -/
def Obligations.NoteOnApplySetsPhaseIncrementAndGain : Prop :=
  (∀ c : Cmd, c &&& 0x4000#15 = 0x4000#15 →
      decode (.cmd c) = .cmdNoteOn (c.extractLsb' 7 7) (c.extractLsb' 0 7)) ∧
  (∀ (n v : Data7) (s : State), s.cfg.Wf →
      exec (.cmdNoteOn n v) s =
        .next { s with phase := 0, inc := ntEntry s.cfg.toParams n.toNat, gain := v }) ∧
  (exec (decode (.cmd 0x5E64#15)) State.reset =
    .next { State.reset with phase := 0, inc := 24883, gain := 100#7 })

/-- 43_render_loop.md R173 (CMD_NOTE_OFF), whole: GAIN ← 0 and nothing else, whatever the note. -/
def Obligations.NoteOffApplySilences : Prop :=
  (∀ c : Cmd, c &&& 0x4000#15 = 0#15 →
      decode (.cmd c) = .cmdNoteOff (c.extractLsb' 7 7) (c.extractLsb' 0 7)) ∧
  (∀ (n v : Data7) (s : State), exec (.cmdNoteOff n v) s = .next { s with gain := 0#7 }) ∧
  observe 5 (loadScript [.noteOn 69#7 127#7, .sample 2, .noteOff 12#7, .sample 1] State.reset) = [0, 262516, 0]

/-! ### The render step -/

/-- 43_render_loop.md R175, R170, 41_oscillator.md R128: the render step in closed form, for every state. GAIN comes from the last word drained, PHASE and INC from the last NoteOn drained (unchanged where there is
none), the sample is read at that PHASE, and PHASE advances; FIFO is empty; nothing else is written. -/
def Obligations.RenderStepClosedForm : Prop :=
  (∀ s : State,
    let g : Data7 := match s.fifo.getLast? with
      | none => s.gain
      | some c => if cmdIsOn c then cmdVel c else 0#7
    let p : Nat := match lastNoteOn s.fifo with
      | none => s.phase
      | some _ => 0
    let d : Nat := match lastNoteOn s.fifo with
      | none => s.inc
      | some c => memReadNT s.cfg (cmdNote c)
    let i0 := p / 2 ^ s.cfg.f
    let y0 := memReadWT s.cfg i0
    let y1 := memReadWT s.cfg ((i0 + 1) % s.cfg.n)
    let level := y0 + (y1 - y0) * ((p % 2 ^ s.cfg.f : Nat) : Int) / 2 ^ s.cfg.f
    exec .sample s =
      .next { s with fifo := [], gain := g, inc := d, phase := (p + d) % (s.cfg.n * 2 ^ s.cfg.f),
                     out := Int.tdiv (level * (g.toNat : Int)) 127 }) ∧
  exec .sample { State.reset with fifo := [noteOnWord 60#7 100#7, noteOffWord 60#7] } =
    .next { State.reset with gain := 0#7, inc := 24883, phase := 24883, out := 0 } ∧
  exec .sample { State.reset with fifo := [noteOffWord 60#7, noteOnWord 69#7 127#7] } =
    .next { State.reset with gain := 127#7, inc := 41848, phase := 41848, out := 0 }

/-- 43_render_loop.md R174, 20_memory.md R61, R62: commands that fit the channel are all applied, each once, in the order
they were accepted, by the next render step, which leaves FIFO empty. -/
def Obligations.CommandsApplyOnceInArrivalOrder : Prop :=
  ∀ (ms : List Message) (s t : State),
    let words := s.fifo ++ ms.filterMap (fun m => commandOf m.len m.b0 m.b1 m.b2)
    words.length ≤ s.cfg.cap → acceptAll ms s = .next t →
    ∃ u, exec .sample t = .next u ∧ u.fifo = [] ∧
      u = nextSample (words.foldl (fun r c =>
            if cmdIsOn c then { r with phase := 0, inc := memReadNT r.cfg (cmdNote c), gain := cmdVel c }
            else { r with gain := 0#7 }) { s with fifo := [] })

/-- 43_render_loop.md R178: a render step whose drain ends with a NoteOff puts out 0; from GAIN = 0 every sample is 0 until a
render step drains a FIFO that ends with a NoteOn; a reset keeps the silence. -/
def Obligations.SilenceUntilADrainEndsWithNoteOn : Prop :=
  (∀ (s : State) (c : Cmd), s.fifo.getLast? = some c → cmdIsOn c = false →
      ∃ t, exec .sample s = .next t ∧ t.out = 0 ∧ t.gain = 0#7) ∧
  (∀ (k : Nat) (s : State), s.applyLatch = none → s.gain = 0#7 →
      (∀ j < k, ∀ t, stateAfter j s = some t → drainsToNoteOn t = false) →
      ∀ x ∈ observe k s, x = 0) ∧
  (∀ s : State, ∃ t, exec .reset s = .next t ∧ t.gain = 0#7)

/-- 43_render_loop.md R179: the first sample after a NoteOn is tdiv(T[0] · v, 127), so 0 where T[0] = 0; the next one, with
no command applied, is read at NT[n] mod M; and the samples of the rule's example. -/
def Obligations.FirstSamplesAfterNoteOn : Prop :=
  (∀ (s : State) (c : Cmd), s.fifo.getLast? = some c → cmdIsOn c = true →
      ∃ t u, exec .sample s = .next t ∧ exec .sample t = .next u ∧
        t.out = Int.tdiv (memReadWT s.cfg 0 * ((cmdVel c).toNat : Int)) 127 ∧
        (memReadWT s.cfg 0 = 0 → t.out = 0) ∧
        u.out = Int.tdiv (lerp s.cfg (memReadNT s.cfg (cmdNote c) % modulus s.cfg.toParams) *
                  ((cmdVel c).toNat : Int)) 127) ∧
  observe 5 (loadScript [.noteOn 69#7 127#7, .sample 4] State.reset) = [0, 262516, 523936, 783924]

/-- 43_render_loop.md R181: eviction does not change the output. Two instances that differ only in their capacity, run on
the same schedule from the same registers and an empty FIFO, put out the same samples and hold the same GAIN; PHASE and INC
can differ only while GAIN = 0. A capacity above the number of messages is the unbounded channel. -/
def Obligations.EvictionDoesNotChangeTheOutput : Prop :=
  ∀ (s : State) (cap' k : Nat), s.applyLatch = none → s.fifo = [] → 1 ≤ s.cfg.cap → 1 ≤ cap' →
    let s' : State := { s with cfg := { s.cfg with cap := cap' } }
    observe k s = observe k s' ∧
    ∃ t t', stateAfter k s = some t ∧ stateAfter k s' = some t' ∧
      t.gain = t'.gain ∧ t.out = t'.out ∧ (t.gain ≠ 0#7 → t.phase = t'.phase ∧ t.inc = t'.inc)

/-- 43_render_loop.md R177: each render step produces exactly one sample and nothing else produces one. -/
def Obligations.ExactlyOneSamplePerPull : Prop :=
  ∀ (k : Nat) (s : State), s.applyLatch = none →
    (observe k s).length = ((s.pending.take k).filter (fun e => !e.rst && e.smpReq)).length

/-! ### The oscillator's arithmetic -/

/-- 41_oscillator.md R129, whole: the floor, (a) L between y0 and y1 and of SW bits, (b) fr = 0 gives y0, (c) the default
examples, (d) the width of the product. -/
def Obligations.InterpolationLiesBetweenNeighbours : Prop :=
  (∀ (c : Config) (phase : Nat), c.Wf → phase < modulus c.toParams →
    let y0 := valueAt c (phase / 2 ^ c.f : Nat)
    let y1 := valueAt c ((phase / 2 ^ c.f : Nat) + 1)
    let fr := phase % 2 ^ c.f
    lerp c phase = y0 + ⌊((y1 - y0 : Int) : ℝ) * (fr : ℝ) / 2 ^ c.f⌋ ∧
    min y0 y1 ≤ lerp c phase ∧ lerp c phase ≤ max y0 y1 ∧ SampleInRange c.sw (lerp c phase) ∧
    (fr = 0 → lerp c phase = y0) ∧
    -(2 ^ (c.sw + c.f)) ≤ (y1 - y0) * (fr : Int) ∧ (y1 - y0) * (fr : Int) ≤ 2 ^ (c.sw + c.f) - 1) ∧
  lerp defaultConfig (31 * 2 ^ 16 + 65535) = 6 ∧ lerp defaultConfig (32 * 2 ^ 16 + 1) = -7

/-- 41_oscillator.md R130, whole: unity at 127, exact silence at 0, odd symmetry, no growth; and the default examples. -/
def Obligations.GainTruncatesTowardZero : Prop :=
  (∀ (l : Int) (g : Data7),
    applyGain l g = (l * (g.toNat : Int)).sign * ((l * (g.toNat : Int)).natAbs / 127 : Nat) ∧
    (g = 127#7 → applyGain l g = l) ∧ (g = 0#7 → applyGain l g = 0) ∧
    applyGain (-l) g = -applyGain l g ∧ |applyGain l g| ≤ |l|) ∧
  applyGain 4194304 100#7 = 3302601 ∧ applyGain (-4194304) 100#7 = -3302601

/-- 41_oscillator.md R131, whole: the advance is the exact Euclidean remainder of the unbounded sum; and the default
examples. -/
def Obligations.PhaseAdvanceIsTheExactRemainder : Prop :=
  (∀ (c : Config) (phase inc : Nat), 0 < c.n →
    advance c phase inc < c.n * 2 ^ c.f ∧
    ∃ q : Nat, phase + inc = q * (c.n * 2 ^ c.f) + advance c phase inc) ∧
  advance defaultConfig 4194303 1 = 0 ∧ advance defaultConfig 4100000 1193033 = 1098729 ∧
  advance defaultConfig 0 5000000 = 805696

/-- 41_oscillator.md R132, whole: interpolated values stay between the least and the largest table entry, samples within the
largest magnitude and SW bits, and the lowest sample only from itself at unity gain; the default bound. -/
def Obligations.SamplesNeverOverflow : Prop :=
  (∀ s : State, s.cfg.Wf → s.phase < modulus s.cfg.toParams →
    (∀ lo hi : Int, (∀ x ∈ s.cfg.table, lo ≤ x ∧ x ≤ hi) → lo ≤ lerp s.cfg s.phase ∧ lerp s.cfg s.phase ≤ hi) ∧
    |sampleOf s| ≤ |lerp s.cfg s.phase| ∧ |lerp s.cfg s.phase| ≤ (maxEntry s.cfg : Int) ∧
    (maxEntry s.cfg : Int) ≤ 2 ^ (s.cfg.sw - 1) ∧ SampleInRange s.cfg.sw (sampleOf s) ∧
    (sampleOf s = -(2 ^ (s.cfg.sw - 1)) → lerp s.cfg s.phase = -(2 ^ (s.cfg.sw - 1)) ∧ s.gain = 127#7)) ∧
  maxEntry defaultConfig = 4194304

/-- 41_oscillator.md R134, whole: the phase after k render steps with no command, when it returns, its exact period, and
its distance from the start after round(M/INC) samples; the default periods. -/
def Obligations.PhasePeriodicity : Prop :=
  (∀ s : State, s.fifo = [] → s.phase < modulus s.cfg.toParams →
    let m := modulus s.cfg.toParams
    (∀ k : Nat, ∃ t, sampleTimes k s = .next t ∧ t.phase = (s.phase + k * s.inc) % m ∧
      (t.phase = s.phase ↔ m ∣ k * s.inc)) ∧
    (m ∣ m / Nat.gcd m s.inc * s.inc ∧ 1 ≤ m / Nat.gcd m s.inc ∧
      ∀ k, 1 ≤ k → m ∣ k * s.inc → m / Nat.gcd m s.inc ≤ k) ∧
    (0 < s.inc → ∃ t d, sampleTimes (roundHalfUp (m : Int) s.inc).toNat s = .next t ∧
      2 * |d| ≤ (s.inc : Int) ∧ (t.phase : Int) ≡ (s.phase : Int) + d [ZMOD (m : Int)])) ∧
  modulus defaultParams / Nat.gcd (modulus defaultParams) 41848 = 524288 ∧
  modulus defaultParams / Nat.gcd (modulus defaultParams) 24883 = 4194304

/-- 41_oscillator.md R135, whole: two consecutive samples, the second with no command applied, differ by at most
D · INC / 2^F + 2, for every INC; D at the defaults. -/
def Obligations.ConsecutiveSamplesAreContinuous : Prop :=
  (∀ s t u : State, s.Wf → exec .sample s = .next t → exec .sample t = .next u →
    |u.out - t.out| * 2 ^ s.cfg.f ≤ (maxSlope s.cfg : Int) * (t.inc : Int) + 2 * 2 ^ s.cfg.f) ∧
  maxSlope defaultConfig = 411114

/-- 41_oscillator.md R136, whole: the sample differs from the reference by less than 2.5 LSB for every table that quantizes
reference values, and the increment drifts at most k / 2^(F+1) table steps in k samples. -/
def Obligations.SampleIsNearTheReference : Prop :=
  (∀ (s : State) (x : Nat → ℝ), s.cfg.Wf → s.phase < modulus s.cfg.toParams → Quantizes s.cfg x →
    |(sampleOf s : ℝ) - sampleRef s x| < 5 / 2) ∧
  (∀ (p : Params) (note k : Nat), p.Ok →
    |(k : ℝ) * (ntEntry p note : ℝ) / 2 ^ p.f - (k : ℝ) * incRef p note| ≤ (k : ℝ) / 2 ^ (p.f + 1))

/-- 41_oscillator.md R122: the ROM entries the model computes with integers are round_half_up of the real formula, a ROM that
does not fit INC refuses the construction, and the entries rise strictly where every reference increment exceeds
1/(2^(1/12) − 1), as at the defaults. -/
def Obligations.NoteRomRoundsTheReference : Prop :=
  (∀ (p : Params) (note : Nat), p.Ok → (ntEntry p note : ℤ) = ⌊incRef p note * 2 ^ p.f + 1 / 2⌋) ∧
  (∀ (p : Params) (src : TableSource) (note : Nat), note < 128 → 2 ^ p.iw ≤ ntEntry p note →
    ∃ e, construct p src = .error e) ∧
  (∀ (p : Params), p.Ok → (∀ note < 128, 1 / ((2 : ℝ) ^ ((1 : ℝ) / 12) - 1) < incRef p note * 2 ^ p.f) →
    ∀ m n, m < n → n < 128 → ntEntry p m < ntEntry p n) ∧
  (∀ note < 128, 1 / ((2 : ℝ) ^ ((1 : ℝ) / 12) - 1) < incRef defaultParams note * 2 ^ defaultParams.f)

/-- 41_oscillator.md R133: the fundamental of the output at the increment of a note is within FS / (2 · M) Hz of the note's
frequency, and the rule's figures for notes 69 and 60 at the defaults, to the digits it gives. -/
def Obligations.OutputFrequencyIsNearTheNote : Prop :=
  (∀ (p : Params) (note : Nat), p.Ok →
    |outputFrequency p (ntEntry p note) - noteFrequency note| ≤ (p.fs : ℝ) / (2 * modulus p)) ∧
  |outputFrequency defaultParams 41848 - 440.000725| ≤ 0.0000005 ∧
  |outputFrequency defaultParams 24883 - 261.6263| ≤ 0.00005 ∧
  |(outputFrequency defaultParams 41848 - noteFrequency 69) / noteFrequency 69 - 0.00000165| ≤ 0.000000005

/-- 00_scope.md R13: the integer primitives against their definitions over the reals. -/
def Obligations.ArithmeticPrimitives : Prop :=
  (∀ (a : Int) (b : Nat), 0 < b →
    floorDiv a b = ⌊(a : ℝ) / (b : ℝ)⌋ ∧ (floorMod a b : Int) = a - b * floorDiv a b ∧ floorMod a b < b ∧
    roundHalfUp a b = ⌊(a : ℝ) / (b : ℝ) + 1 / 2⌋ ∧ roundHalfAway a b = roundHalfAwayReal ((a : ℝ) / (b : ℝ))) ∧
  (∀ (a : Int) (k : Nat), shiftRightFloor a k = ⌊(a : ℝ) / 2 ^ k⌋) ∧
  (∀ (a b : Int), tdiv a b = a.sign * b.sign * ((a.natAbs / b.natAbs : Nat) : Int))

/-- 00_scope.md R10, whole: the derived constants and their default values. -/
def Obligations.DerivedConstants : Prop :=
  (∀ p : Params, p.Ok →
    p.n ≤ 2 ^ indexWidth p ∧ 2 ^ (indexWidth p - 1) < p.n ∧ modulus p = p.n * 2 ^ p.f ∧
    phaseWidth p = indexWidth p + p.f ∧ p.cap + 1 ≤ 2 ^ countWidth p ∧ 2 ^ (countWidth p - 1) < p.cap + 1 ∧
    modulus p ≤ 2 ^ phaseWidth p) ∧
  indexWidth defaultParams = 6 ∧ modulus defaultParams = 4194304 ∧ phaseWidth defaultParams = 22 ∧
  countWidth defaultParams = 5

/-! ### The wave table -/

/-- 40_wavetable.md R110, R111: a table built from reference values holds each value rounded half away from zero at SF
fraction bits, and a value whose rounding leaves the SW-bit range refuses the construction. Reference values are exact
fractions (log entry 6). -/
def Obligations.GeneratedTablesAreQuantized : Prop :=
  (∀ (p : Params) (values : List (Int × Nat)) (i : Nat) (x : Int × Nat), 0 < x.2 → values[i]? = some x →
    (buildTable p (.generated values))[i]? = some (roundHalfAwayReal ((x.1 : ℝ) / (x.2 : ℝ) * 2 ^ p.sf))) ∧
  (∀ (p : Params) (values : List (Int × Nat)) (x : Int × Nat), 0 < x.2 → x ∈ values →
    ¬ SampleInRange p.sw (roundHalfAwayReal ((x.1 : ℝ) / (x.2 : ℝ) * 2 ^ p.sf)) →
    ∃ e, construct p (.generated values) = .error e)

/-- 40_wavetable.md R115, whole: value_at reads the entry at the Euclidean remainder, so it is periodic, reads from the end
for negative k and wraps for k ≥ N; and the examples. -/
def Obligations.ValueAtIsPeriodic : Prop :=
  (∀ (c : Config) (k : Int), c.Wf →
    (∃ i : Nat, i < c.n ∧ (i : Int) = k % (c.n : Int) ∧ c.table[i]? = some (valueAt c k)) ∧
    valueAt c (k + c.n) = valueAt c k ∧ valueAt c (-1) = memReadWT c (c.n - 1)) ∧
  valueAt defaultConfig 65 = 411114 ∧ valueAt defaultConfig (-1) = -411114

/-- 40_wavetable.md R117 (a), (b): a table that quantizes the sine has value_at(0) = 0, and value_at(N/4) = 2^SF where 4
divides N, a value that SW bits hold when SF ≤ SW − 2. Part (d) is `ValueAtIsPeriodic`, part (c)
`SineTableWithoutAPeakEntry`, the last sentence `FullScaleSinePeakIsRefused`. -/
def Obligations.SineTableLandmarks : Prop :=
  ∀ c : Config, 2 ≤ c.n → Quantizes c (sineValue c.n) →
    valueAt c 0 = 0 ∧ (4 ∣ c.n → valueAt c (c.n / 4 : Nat) = 2 ^ c.sf) ∧
    (c.sf + 2 ≤ c.sw → SampleInRange c.sw (2 ^ c.sf))

/-- 40_wavetable.md R117 (c), where it holds (log entry 16, DEDUCED): where 4 does not divide N no entry has the phase π/2, the
reference value at floor(N/4) is below 1, and the entry there is below 2^SF exactly where the rounding of R111 does not reach
2^SF, so whenever N² < 2^SF. The rule's examples N = 6 and N = 2, with the entry of N = 6 at SF = 22 from 95_test_vectors.md
L1-1; and N = 10001 at SF = 22, where the rounding does reach 2^SF. -/
def Obligations.SineTableWithoutAPeakEntry : Prop :=
  (∀ c : Config, 2 ≤ c.n → ¬ 4 ∣ c.n → Quantizes c (sineValue c.n) →
    (∀ i < c.n, 2 * Real.pi * i / c.n ≠ Real.pi / 2) ∧
    sineValue c.n (c.n / 4) < 1 ∧
    (valueAt c (c.n / 4 : Nat) < 2 ^ c.sf ↔ sineValue c.n (c.n / 4) * 2 ^ c.sf + 1 / 2 < 2 ^ c.sf) ∧
    (c.n ^ 2 < 2 ^ c.sf → valueAt c (c.n / 4 : Nat) < 2 ^ c.sf)) ∧
  (∀ c : Config, c.n = 6 → Quantizes c (sineValue 6) →
    valueAt c 1 = roundHalfAwayReal (Real.sin (Real.pi / 3) * 2 ^ c.sf) ∧
    |(valueAt c 1 : ℝ) - 0.866 * 2 ^ c.sf| ≤ 0.0001 * 2 ^ c.sf + 1 / 2 ∧
    (c.sf = 22 → valueAt c 1 = 3632374)) ∧
  (∀ c : Config, c.n = 2 → Quantizes c (sineValue 2) → valueAt c 0 = 0 ∧ c.table = [0, 0]) ∧
  (∀ c : Config, c.n = 10001 → c.sf = 22 → Quantizes c (sineValue 10001) → valueAt c 2500 = 2 ^ 22)

/-- 40_wavetable.md R117, last sentence, and R111: with SF = SW − 1 and 4 dividing N the peak of a quantized sine does not fit
the signed SW-bit range, and construction refuses every source of such a table by the name of that fault. -/
def Obligations.FullScaleSinePeakIsRefused : Prop :=
  ∀ c : Config, c.toParams.Ok → 4 ∣ c.n → c.sf = c.sw - 1 → Quantizes c (sineValue c.n) →
    ¬ SampleInRange c.sw (valueAt c (c.n / 4 : Nat)) ∧ ¬ c.Wf ∧
    ∀ src : TableSource, sourceIsOk src = true → buildTable c.toParams src = c.table →
      construct c.toParams src = .error .tableEntry

/-- 40_wavetable.md R112: the default table holds the quantized sine of 64 entries. -/
def Obligations.DefaultTableIsTheQuantizedSine : Prop := Quantizes defaultConfig (sineValue 64)

/-- 40_wavetable.md R112 (last sentence): the two symmetries of the default table, at every index. -/
def Obligations.DefaultTableSymmetries : Prop :=
  (∀ i : Int, valueAt defaultConfig (i + 32) = -valueAt defaultConfig i) ∧
  (∀ j : Int, valueAt defaultConfig (16 - j) = valueAt defaultConfig (16 + j))

/-- 00_scope.md R11, 60_exceptions.md R191, 70_reset_and_hazards.md R223: construction answers a machine exactly for a legal
configuration, and then it is the reset state of that configuration; N < 2 is refused by name. Two clauses rest on the
model's choices: that reference values are exact fractions, and that one without a positive denominator is refused (log entry
6, DESIGN CHOICE), and that the default instance is `State.reset` (log entry 9, DESIGN CHOICE). -/
def Obligations.ConstructionAcceptsExactlyLegalConfigurations : Prop :=
  (∀ (p : Params) (table : List Int) (s : State),
    construct p (.given table) = .ok s ↔
      (s = State.resetOf { toParams := p, table := table, nt := ntRom p } ∧ s.cfg.Wf)) ∧
  (∀ (p : Params) (values : List (Int × Nat)) (s : State),
    construct p (.generated values) = .ok s ↔
      ((∀ x ∈ values, 0 < x.2) ∧
        s = State.resetOf { toParams := p, table := values.map (quantize p.sf), nt := ntRom p } ∧ s.cfg.Wf)) ∧
  (∀ (p : Params) (src : TableSource), p.n < 2 → construct p src = .error .tableTooShort) ∧
  construct defaultParams (.given defaultTable) = .ok State.reset

/-! ### Reset, the clock edge and the step -/

/-- 70_reset_and_hazards.md R221, whole, and 10_state.md R35: RESET writes the five state elements and nothing else; a
message and a pull at the same edge are discarded; a reset of the reset state changes nothing; the sample after a reset is 0
and leaves PHASE = 0. -/
def Obligations.ResetClearsTheFiveElements : Prop :=
  (∀ s : State, exec .reset s = .next { s with phase := 0, inc := 0, gain := 0#7, fifo := [], out := 0 }) ∧
  (∀ (s : State) (e : Edge) (rest : List Edge), s.applyLatch = none → s.pending = e :: rest → e.rst = true →
    step s = .next { s with phase := 0, inc := 0, gain := 0#7, fifo := [], out := 0, smpValid := false,
                            pending := rest }) ∧
  (∀ c : Config, exec .reset (State.resetOf c) = .next (State.resetOf c)) ∧
  (∀ s t : State, exec .reset s = .next t → ∃ u, exec .sample t = .next u ∧ u.out = 0 ∧ u.phase = 0)

/-- 70_reset_and_hazards.md R231: at an edge without reset the render step runs first, on FIFO as it was before the edge, then
the accept step, and smp_valid becomes smp_req; with reset, the reset alone. The last clause is the model's reading of R231's
"exactly one entry" (log entry 12, DEDUCED): a full FIFO at an edge with a pull and a message ends the edge with exactly the
word the message pushes, and with no word where the message is one that 42_command_mapper.md R155 ignores. -/
def Obligations.ClockEdgeOrder : Prop :=
  (∀ (s : State) (e : Edge) (rest : List Edge), s.applyLatch = none → s.pending = e :: rest →
    (e.rst = true → ∃ t, exec .reset { s with pending := rest } = .next t ∧
      step s = .next { t with smpValid := false }) ∧
    (e.rst = false → ∃ t u,
      (if e.smpReq = true then exec .sample { s with pending := rest } = .next t else t = { s with pending := rest }) ∧
      (match e.msg with
        | some m => exec (decode (.msg m.len m.b0 m.b1 m.b2)) t = .next u
        | none => u = t) ∧
      step s = .next { u with smpValid := e.smpReq })) ∧
  (∀ (s : State) (m : Message) (rest : List Edge), s.applyLatch = none → 1 ≤ s.cfg.cap →
    s.fifo.length = s.cfg.cap → s.pending = ⟨false, true, some m⟩ :: rest →
    ∃ t, step s = .next t ∧ t.fifo = (commandOf m.len m.b0 m.b1 m.b2).toList)

/-- 70_reset_and_hazards.md R226: a message accepted at the same edge as a pull misses that pull (the sample is the one
without it) and is the whole drain of the next one. -/
def Obligations.SameEdgeMessageMissesThePull : Prop :=
  ∀ (s : State) (m : Message) (c : Cmd) (rest : List Edge), s.applyLatch = none → 1 ≤ s.cfg.cap →
    commandOf m.len m.b0 m.b1 m.b2 = some c → s.pending = ⟨false, true, some m⟩ :: pullEdge :: rest →
    ∃ u t v, exec .sample { s with pending := pullEdge :: rest } = .next u ∧
      step s = .next t ∧ t = { u with fifo := [c], smpValid := true } ∧
      step t = .next v ∧ v.gain = (if cmdIsOn c then cmdVel c else 0#7) ∧ v.fifo = []

/-- 60_exceptions.md R196, 70_reset_and_hazards.md R231 (last paragraph): an edge with a pull and a message is the
interleaving in which the pull comes first, as two edges of their own. -/
def Obligations.SharedEdgeIsAnInterleaving : Prop :=
  ∀ (s : State) (m : Message) (rest : List Edge), s.applyLatch = none →
    ∃ t, step { s with pending := ⟨false, true, some m⟩ :: rest } = .next t ∧
      stateAfter 2 { s with pending := pullEdge :: messageEdge m.len m.b0 m.b1 m.b2 :: rest } =
        some { t with smpValid := false } ∧
      observe 1 { s with pending := ⟨false, true, some m⟩ :: rest } =
        observe 2 { s with pending := pullEdge :: messageEdge m.len m.b0 m.b1 m.b2 :: rest }

/-- The model's own placing of a word before the machine (log entry 5): the next step runs exactly the operation the decoder
reads from the word; around it the step takes the operation off the schedule or the latch and sets smp_valid to whether it was
a SAMPLE (70_reset_and_hazards.md R231). -/
def Obligations.StepRunsTheDecodedInstruction : Prop :=
  (∀ (s : State) (p : Presented), ∃ t, exec (decode p) { s with applyLatch := none } = .next t ∧
    step (present p s) = .next { t with smpValid := decide (decode p = .sample) }) ∧
  (∀ (s : State) (nbits w : Nat) (i : Instr), decodeTableWord nbits w = some i →
    ∃ t, exec i { s with applyLatch := none } = .next t ∧
      step (s.withFetchWord nbits w) = .next { t with smpValid := decide (i = .sample) })

/-- 60_exceptions.md R202, 70_reset_and_hazards.md R232: an edge that presents nothing keeps all state and ends the sample's
one valid cycle. -/
def Obligations.IdleEdgesKeepAllState : Prop :=
  ∀ s : State, s.applyLatch = none →
    (s.pending = [] → step s = .next { s with smpValid := false }) ∧
    (∀ rest, s.pending = ⟨false, false, none⟩ :: rest → step s = .next { s with smpValid := false, pending := rest })

/-- 60_exceptions.md R190: no step raises an exception, traps, faults or halts; every operation and every step answers a next
state, in every state. -/
def Obligations.NoStepStops : Prop :=
  (∀ (i : Instr) (s : State), ∃ t, exec i s = .next t) ∧ (∀ s : State, ∃ t, step s = .next t) ∧
  (∀ (k : Nat) (s : State), ∃ t, stateAfter k s = some t)

/-- 10_state.md R20, R25, R26, R29, R30, 30_encoding.md R88: every step keeps a state the spec allows one that it allows. -/
def Obligations.StepKeepsStatesLegal : Prop :=
  ∀ s t : State, s.Wf → step s = .next t → t.Wf

/-- 10_state.md R25, R35: the reset state of a legal configuration is legal, the default one too. -/
def Obligations.ResetStatesAreLegal : Prop :=
  (∀ c : Config, c.Wf → (State.resetOf c).Wf) ∧ State.reset.Wf

/-- 20_memory.md R54, 10_state.md R31: no step, reset included, changes WT, NTROM or a parameter. -/
def Obligations.ConfigurationNeverChanges : Prop :=
  (∀ (i : Instr) (s t : State), exec i s = .next t → t.cfg = s.cfg) ∧
  (∀ s t : State, step s = .next t → t.cfg = s.cfg) ∧
  (∀ (k : Nat) (s t : State), stateAfter k s = some t → t.cfg = s.cfg)

/-- 10_state.md R34: the frame of every operation. A message writes only FIFO; an apply only PHASE, INC and GAIN (a NoteOff
only GAIN); a render step empties FIFO and writes PHASE, INC, GAIN and OUT; reset writes the five elements. The tables,
smp_valid and the schedule stay. -/
def Obligations.WritersOfEachElement : Prop :=
  ∀ (i : Instr) (s t : State), exec i s = .next t →
    (i.priority.isSome = true → t = { s with fifo := t.fifo }) ∧
    (i.ignored = true → t = s) ∧
    ((∃ n v, i = .cmdNoteOn n v) → t = { s with phase := t.phase, inc := t.inc, gain := t.gain }) ∧
    ((∃ n v, i = .cmdNoteOff n v) → t = { s with gain := t.gain }) ∧
    (i = .sample → t = { s with fifo := [], phase := t.phase, inc := t.inc, gain := t.gain, out := t.out }) ∧
    (i = .reset → t = { s with fifo := [], phase := t.phase, inc := t.inc, gain := t.gain, out := t.out })

/-- The model's schedule and latch (log entries 2 and 3): a step takes exactly the head off the schedule, and no step ever
puts a word in the apply latch. -/
def Obligations.ScheduleIsTakenInOrder : Prop :=
  ∀ s t : State, step s = .next t →
    t.applyLatch = none ∧ (s.applyLatch = none → t.pending = s.pending.tail) ∧
    (s.applyLatch ≠ none → t.pending = s.pending)

/-! ### Ports and programs -/

/-- 10_state.md R32, R35, 30_encoding.md R90, R91: the output ports show the registers exactly, and 0 after reset. -/
def Obligations.PortsShowTheState : Prop :=
  (∀ s : State, s.Wf →
    (dbgPhase s).toNat = s.phase ∧ (dbgInc s).toNat = s.inc ∧ (dbgGain s).toNat = s.gain.toNat ∧
    (dbgCount s).toNat = s.fifo.length ∧ (smpData s).toInt = s.out ∧ smpValidPort s = s.smpValid) ∧
  (∀ c : Config, (dbgPhase (State.resetOf c)).toNat = 0 ∧ (dbgInc (State.resetOf c)).toNat = 0 ∧
    (dbgGain (State.resetOf c)).toNat = 0 ∧ (dbgCount (State.resetOf c)).toNat = 0 ∧
    (smpData (State.resetOf c)).toInt = 0)

/-- 30_encoding.md R93, whole: the pseudo-operations and the operations their messages decode to. -/
def Obligations.PseudoOperationsExpand : Prop :=
  (∀ n v : Data7, expandLine (.noteOn n v) = .msg 0x90#8 (dataByte n) (dataByte v) ∧
    (v ≠ 0#7 → decode (.msg 3 0x90#8 (dataByte n) (dataByte v)) = .msgNoteOn 0#4 n v) ∧
    (v = 0#7 → decode (.msg 3 0x90#8 (dataByte n) (dataByte v)) = .msgNoteOnV0 0#4 n)) ∧
  (∀ n : Data7, expandLine (.noteOff n) = .msg 0x80#8 (dataByte n) 0#8 ∧
    decode (.msg 3 0x80#8 (dataByte n) 0#8) = .msgNoteOff 0#4 n 0#7) ∧
  (∀ n r : Data7, expandLine (.noteOffRel n r) = .msg 0x80#8 (dataByte n) (dataByte r) ∧
    decode (.msg 3 0x80#8 (dataByte n) (dataByte r)) = .msgNoteOff 0#4 n r)
end

