-- ==== Sys2Proof/Laws/Arith.lean ====
section
/-! SUPPORT. The integer primitives against their specifications (00_scope.md R13), the integer root, and the entries of the
note-increment ROM. -/

namespace Sys2Proof.Machine

/-- One bit-by-bit search keeps its bracket. -/
theorem rootBits_spec (a : Nat) : ∀ bits acc, acc ^ 12 ≤ a → a < (acc + 2 ^ bits) ^ 12 →
    (rootBits a bits acc) ^ 12 ≤ a ∧ a < (rootBits a bits acc + 1) ^ 12 := by
  intro bits
  induction bits with
  | zero => intro acc h1 h2; exact ⟨h1, by simpa only [rootBits, pow_zero] using h2⟩
  | succ b ih =>
    intro acc h1 h2
    simp only [rootBits]
    split
    · rename_i h
      refine ih _ h ?_
      rw [add_assoc, ← two_mul, ← pow_succ']
      exact h2
    · rename_i h
      exact ih _ h1 (by omega)

/-- `floorRoot12 a` is the floor of the twelfth root of `a`. -/
theorem floorRoot12_spec (a : Nat) : (floorRoot12 a) ^ 12 ≤ a ∧ a < (floorRoot12 a + 1) ^ 12 := by
  apply rootBits_spec
  · simp
  · rw [zero_add, ← pow_mul]
    refine lt_of_lt_of_le Nat.lt_log2_self (Nat.pow_le_pow_right (by norm_num) ?_)
    omega

/-- A truncated quotient and its remainder stay within the divisor. -/
theorem tdiv_127_bounds (a : Int) : |127 * Int.tdiv a 127 - a| < 127 := by
  have h := Int.mul_tdiv_add_tmod a 127
  have hr : |Int.tmod a 127| < 127 := by
    have := Int.tmod_lt_of_pos a (show (0 : Int) < 127 by norm_num)
    have := Int.lt_tmod_of_pos a (show (0 : Int) < 127 by norm_num)
    rw [abs_lt]
    constructor <;> linarith
  rw [show 127 * Int.tdiv a 127 - a = -(Int.tmod a 127) by linarith, abs_neg]
  exact hr

/-- `ceilLog2 k` is the least exponent whose power of two is k or more, for k ≥ 2. -/
theorem ceilLog2_spec (k : Nat) (h : 2 ≤ k) : k ≤ 2 ^ ceilLog2 k ∧ 2 ^ (ceilLog2 k - 1) < k := by
  unfold ceilLog2
  rw [if_neg (by omega)]
  have a := Nat.lt_log2_self (n := k - 1)
  have b := Nat.log2_self_le (n := k - 1) (by omega)
  rw [Nat.add_sub_cancel]
  omega

/-- The Euclidean remainder as a natural number. -/
theorem floorMod_spec (a : Int) (b : Nat) (hb : 0 < b) : floorMod a b < b ∧ (floorMod a b : Int) = a % (b : Int) := by
  have hb' : (0 : Int) < b := by exact_mod_cast hb
  have := Int.emod_nonneg a hb'.ne'
  have := Int.emod_lt_of_pos a hb'
  unfold floorMod
  omega

/-- The ROM holds the entry of every note. -/
theorem ntRom_getElem? (p : Params) (k : Nat) (h : k < 128) : (ntRom p)[k]? = some (ntEntry p k) := by
  rw [ntRom, List.getElem?_map, List.getElem?_range h, Option.map_some]

end Sys2Proof.Machine
end

