-- ==== Sys2Proof/Laws/Encoding.lean ====
section
/-! SUPPORT. The operand fields against the words that hold them (30_encoding.md R81, R87): reading a field of an assembled
word gives the field, and a word is assembled from its fields. -/

namespace Sys2Proof.Machine

@[simp] theorem kindOf_append (k : BitVec 4) (c : Chan) : kindOf (k ++ c) = k := by
  unfold kindOf; revert k c; decide +kernel

@[simp] theorem chanOf_append (k : BitVec 4) (c : Chan) : chanOf (k ++ c) = c := by
  unfold chanOf; revert k c; decide +kernel

@[simp] theorem highBit_append (k : BitVec 4) (c : Chan) : highBit (k ++ c) = k.getLsbD 3 := by
  unfold highBit; revert k c; decide +kernel

@[simp] theorem dataOf_dataByte (d : Data7) : dataOf (dataByte d) = d := by
  revert d; decide +kernel

@[simp] theorem highBit_dataByte (d : Data7) : highBit (dataByte d) = false := by
  revert d; decide +kernel

/-- A status byte is assembled from its nibbles. -/
theorem statusByte_of_kindOf (b : Byte) (k : BitVec 4) (h : kindOf b = k) : statusByte k (chanOf b) = b := by
  subst h; revert b; decide +kernel

/-- A data byte is assembled from its value. -/
theorem dataByte_dataOf (b : Byte) (h : highBit b = false) : dataByte (dataOf b) = b := by
  revert b; decide +kernel

/-- Below 0x80 the status nibble is below 8. -/
theorem kindOf_of_not_highBit (b : Byte) (h : highBit b = false) :
    kindOf b ≠ kindNoteOff ∧ kindOf b ≠ kindNoteOn ∧ kindOf b ≠ 0xA#4 ∧ kindOf b ≠ 0xB#4 ∧ ¬ 0xC#4 ≤ kindOf b := by
  revert b; decide +kernel

/-- From 0x80 on, a kind that is none of 8, 9, 0xA, 0xB is 0xC or more. -/
theorem kindOf_of_highBit (b : Byte) (h : highBit b = true) (h8 : kindOf b ≠ kindNoteOff) (h9 : kindOf b ≠ kindNoteOn)
    (ha : kindOf b ≠ 0xA#4) (hb : kindOf b ≠ 0xB#4) : 0xC#4 ≤ kindOf b := by
  revert b; decide +kernel

/-- Bit 7 of a byte and its status nibble as numbers. -/
theorem highBit_eq (b : Byte) : highBit b = decide (128 ≤ b.toNat) := by
  revert b; decide +kernel

theorem kindOf_toNat (b : Byte) : (kindOf b).toNat = b.toNat / 16 := by
  revert b; decide +kernel

theorem dataOf_toNat (b : Byte) : (dataOf b).toNat = b.toNat % 128 := by
  revert b; decide +kernel

/-- The bits of an assembled command word. -/
theorem cmdWord_getLsbD (op : BitVec 1) (n v : Data7) (i : Nat) :
    (cmdWord op n v).getLsbD i =
      if i < 7 then v.getLsbD i else if i - 7 < 7 then n.getLsbD (i - 7) else op.getLsbD (i - 7 - 7) := by
  refine (BitVec.getLsbD_append (x := op ++ n) (y := v)).trans ?_
  by_cases h : i < 7
  · rw [if_pos h, if_pos h]
  · rw [if_neg h, if_neg h]; exact BitVec.getLsbD_append (x := op) (y := n)

@[simp] theorem cmdIsOn_cmdWord (op : BitVec 1) (n v : Data7) : cmdIsOn (cmdWord op n v) = op.getLsbD 0 := by
  rw [cmdIsOn, cmdWord_getLsbD, if_neg (by decide), if_neg (by decide)]

@[simp] theorem cmdNote_cmdWord (op : BitVec 1) (n v : Data7) : cmdNote (cmdWord op n v) = n := by
  apply BitVec.eq_of_getLsbD_eq
  intro i hi
  simp only [cmdNote, BitVec.getLsbD_extractLsb', cmdWord_getLsbD, hi]
  rw [if_neg (by omega), if_pos (by omega)]
  simp

@[simp] theorem cmdVel_cmdWord (op : BitVec 1) (n v : Data7) : cmdVel (cmdWord op n v) = v := by
  apply BitVec.eq_of_getLsbD_eq
  intro i hi
  simp [cmdVel, cmdWord_getLsbD, hi]

/-- A command word is assembled from its fields. -/
theorem cmdWord_of_fields (c : Cmd) :
    cmdWord (if cmdIsOn c then 1#1 else 0#1) (cmdNote c) (cmdVel c) = c := by
  apply BitVec.eq_of_getLsbD_eq
  intro i hi
  simp only [cmdWord_getLsbD, cmdNote, cmdVel, cmdIsOn, BitVec.getLsbD_extractLsb']
  by_cases h1 : i < 7
  · simp [h1]
  · by_cases h2 : i - 7 < 7
    · simp only [h1, h2, if_false, if_true, decide_true, Bool.true_and]
      rw [show 7 + (i - 7) = i by omega]
    · have e14 : i = 14 := by omega
      have e0 : i - 7 - 7 = 0 := by omega
      simp only [h1, h2, if_false]
      rw [e0, e14]
      have key : ∀ b : Bool, BitVec.getLsbD (if b = true then 1#1 else 0#1) 0 = b := by decide
      exact key _

/-- The number of an assembled command word (R87). -/
theorem cmdWord_toNat (op : BitVec 1) (n v : Data7) :
    (cmdWord op n v).toNat = 16384 * op.toNat + 128 * n.toNat + v.toNat := by
  have h : (cmdWord op n v).toNat = (op.toNat <<< 7 ||| n.toNat) <<< 7 ||| v.toNat := by
    simp only [cmdWord, HAppend.hAppend, BitVec.append, BitVec.toNat_or, BitVec.toNat_shiftLeftZeroExtend,
      BitVec.toNat_setWidth']
  rw [h, ← Nat.shiftLeft_add_eq_or_of_lt (show n.toNat < 2 ^ 7 by omega),
    ← Nat.shiftLeft_add_eq_or_of_lt (show v.toNat < 2 ^ 7 by omega)]
  simp only [Nat.shiftLeft_eq]
  omega

/-- The number of a message word (R81). -/
theorem messageWord_toNat (b0 b1 b2 : Byte) :
    (messageWord b0 b1 b2).toNat = 65536 * b0.toNat + 256 * b1.toNat + b2.toNat := by
  have h : (messageWord b0 b1 b2).toNat = (b0.toNat <<< 8 ||| b1.toNat) <<< 8 ||| b2.toNat := by
    simp only [messageWord, HAppend.hAppend, BitVec.append, BitVec.toNat_or, BitVec.toNat_shiftLeftZeroExtend,
      BitVec.toNat_setWidth']
  rw [h, ← Nat.shiftLeft_add_eq_or_of_lt (show b1.toNat < 2 ^ 8 by omega),
    ← Nat.shiftLeft_add_eq_or_of_lt (show b2.toNat < 2 ^ 8 by omega)]
  simp only [Nat.shiftLeft_eq]
  omega

end Sys2Proof.Machine
end

