-- ==== Sys2Proof/Laws/State.lean ====
section
/-! SUPPORT. What each named operation does to each field of the state: one lemma per operation and field, true by
definition. -/

namespace Sys2Proof.Machine

@[simp] theorem push_cfg (c : Cmd) (s : State) : (push c s).cfg = s.cfg := rfl
@[simp] theorem push_phase (c : Cmd) (s : State) : (push c s).phase = s.phase := rfl
@[simp] theorem push_inc (c : Cmd) (s : State) : (push c s).inc = s.inc := rfl
@[simp] theorem push_gain (c : Cmd) (s : State) : (push c s).gain = s.gain := rfl
@[simp] theorem push_fifo (c : Cmd) (s : State) : (push c s).fifo = pushWord s.cfg.cap s.fifo c := rfl
@[simp] theorem push_out (c : Cmd) (s : State) : (push c s).out = s.out := rfl
@[simp] theorem push_smpValid (c : Cmd) (s : State) : (push c s).smpValid = s.smpValid := rfl
@[simp] theorem push_pending (c : Cmd) (s : State) : (push c s).pending = s.pending := rfl
@[simp] theorem push_applyLatch (c : Cmd) (s : State) : (push c s).applyLatch = s.applyLatch := rfl

@[simp] theorem drained_cfg (s : State) : (drained s).cfg = s.cfg := rfl
@[simp] theorem drained_phase (s : State) : (drained s).phase = s.phase := rfl
@[simp] theorem drained_inc (s : State) : (drained s).inc = s.inc := rfl
@[simp] theorem drained_gain (s : State) : (drained s).gain = s.gain := rfl
@[simp] theorem drained_fifo (s : State) : (drained s).fifo = [] := rfl
@[simp] theorem drained_out (s : State) : (drained s).out = s.out := rfl
@[simp] theorem drained_smpValid (s : State) : (drained s).smpValid = s.smpValid := rfl
@[simp] theorem drained_pending (s : State) : (drained s).pending = s.pending := rfl
@[simp] theorem drained_applyLatch (s : State) : (drained s).applyLatch = s.applyLatch := rfl

@[simp] theorem resetPhase_cfg (s : State) : (resetPhase s).cfg = s.cfg := rfl
@[simp] theorem resetPhase_phase (s : State) : (resetPhase s).phase = 0 := rfl
@[simp] theorem resetPhase_inc (s : State) : (resetPhase s).inc = s.inc := rfl
@[simp] theorem resetPhase_gain (s : State) : (resetPhase s).gain = s.gain := rfl
@[simp] theorem resetPhase_fifo (s : State) : (resetPhase s).fifo = s.fifo := rfl
@[simp] theorem resetPhase_out (s : State) : (resetPhase s).out = s.out := rfl
@[simp] theorem resetPhase_smpValid (s : State) : (resetPhase s).smpValid = s.smpValid := rfl
@[simp] theorem resetPhase_pending (s : State) : (resetPhase s).pending = s.pending := rfl
@[simp] theorem resetPhase_applyLatch (s : State) : (resetPhase s).applyLatch = s.applyLatch := rfl

@[simp] theorem setFreq_cfg (n : Data7) (s : State) : (setFreq n s).cfg = s.cfg := rfl
@[simp] theorem setFreq_phase (n : Data7) (s : State) : (setFreq n s).phase = s.phase := rfl
@[simp] theorem setFreq_inc (n : Data7) (s : State) : (setFreq n s).inc = memReadNT s.cfg n := rfl
@[simp] theorem setFreq_gain (n : Data7) (s : State) : (setFreq n s).gain = s.gain := rfl
@[simp] theorem setFreq_fifo (n : Data7) (s : State) : (setFreq n s).fifo = s.fifo := rfl
@[simp] theorem setFreq_out (n : Data7) (s : State) : (setFreq n s).out = s.out := rfl
@[simp] theorem setFreq_smpValid (n : Data7) (s : State) : (setFreq n s).smpValid = s.smpValid := rfl
@[simp] theorem setFreq_pending (n : Data7) (s : State) : (setFreq n s).pending = s.pending := rfl
@[simp] theorem setFreq_applyLatch (n : Data7) (s : State) : (setFreq n s).applyLatch = s.applyLatch := rfl

@[simp] theorem setGain_cfg (g : Data7) (s : State) : (setGain g s).cfg = s.cfg := rfl
@[simp] theorem setGain_phase (g : Data7) (s : State) : (setGain g s).phase = s.phase := rfl
@[simp] theorem setGain_inc (g : Data7) (s : State) : (setGain g s).inc = s.inc := rfl
@[simp] theorem setGain_gain (g : Data7) (s : State) : (setGain g s).gain = g := rfl
@[simp] theorem setGain_fifo (g : Data7) (s : State) : (setGain g s).fifo = s.fifo := rfl
@[simp] theorem setGain_out (g : Data7) (s : State) : (setGain g s).out = s.out := rfl
@[simp] theorem setGain_smpValid (g : Data7) (s : State) : (setGain g s).smpValid = s.smpValid := rfl
@[simp] theorem setGain_pending (g : Data7) (s : State) : (setGain g s).pending = s.pending := rfl
@[simp] theorem setGain_applyLatch (g : Data7) (s : State) : (setGain g s).applyLatch = s.applyLatch := rfl

@[simp] theorem setOut_cfg (v : Int) (s : State) : (setOut v s).cfg = s.cfg := rfl
@[simp] theorem setOut_phase (v : Int) (s : State) : (setOut v s).phase = s.phase := rfl
@[simp] theorem setOut_inc (v : Int) (s : State) : (setOut v s).inc = s.inc := rfl
@[simp] theorem setOut_gain (v : Int) (s : State) : (setOut v s).gain = s.gain := rfl
@[simp] theorem setOut_fifo (v : Int) (s : State) : (setOut v s).fifo = s.fifo := rfl
@[simp] theorem setOut_out (v : Int) (s : State) : (setOut v s).out = v := rfl
@[simp] theorem setOut_smpValid (v : Int) (s : State) : (setOut v s).smpValid = s.smpValid := rfl
@[simp] theorem setOut_pending (v : Int) (s : State) : (setOut v s).pending = s.pending := rfl
@[simp] theorem setOut_applyLatch (v : Int) (s : State) : (setOut v s).applyLatch = s.applyLatch := rfl

@[simp] theorem setPhase_cfg (p : Nat) (s : State) : (setPhase p s).cfg = s.cfg := rfl
@[simp] theorem setPhase_phase (p : Nat) (s : State) : (setPhase p s).phase = p := rfl
@[simp] theorem setPhase_inc (p : Nat) (s : State) : (setPhase p s).inc = s.inc := rfl
@[simp] theorem setPhase_gain (p : Nat) (s : State) : (setPhase p s).gain = s.gain := rfl
@[simp] theorem setPhase_fifo (p : Nat) (s : State) : (setPhase p s).fifo = s.fifo := rfl
@[simp] theorem setPhase_out (p : Nat) (s : State) : (setPhase p s).out = s.out := rfl
@[simp] theorem setPhase_smpValid (p : Nat) (s : State) : (setPhase p s).smpValid = s.smpValid := rfl
@[simp] theorem setPhase_pending (p : Nat) (s : State) : (setPhase p s).pending = s.pending := rfl
@[simp] theorem setPhase_applyLatch (p : Nat) (s : State) : (setPhase p s).applyLatch = s.applyLatch := rfl

@[simp] theorem clearAll_cfg (s : State) : (clearAll s).cfg = s.cfg := rfl
@[simp] theorem clearAll_phase (s : State) : (clearAll s).phase = 0 := rfl
@[simp] theorem clearAll_inc (s : State) : (clearAll s).inc = 0 := rfl
@[simp] theorem clearAll_gain (s : State) : (clearAll s).gain = 0#7 := rfl
@[simp] theorem clearAll_fifo (s : State) : (clearAll s).fifo = [] := rfl
@[simp] theorem clearAll_out (s : State) : (clearAll s).out = 0 := rfl
@[simp] theorem clearAll_smpValid (s : State) : (clearAll s).smpValid = s.smpValid := rfl
@[simp] theorem clearAll_pending (s : State) : (clearAll s).pending = s.pending := rfl
@[simp] theorem clearAll_applyLatch (s : State) : (clearAll s).applyLatch = s.applyLatch := rfl

@[simp] theorem setSmpValid_cfg (v : Bool) (s : State) : (setSmpValid v s).cfg = s.cfg := rfl
@[simp] theorem setSmpValid_phase (v : Bool) (s : State) : (setSmpValid v s).phase = s.phase := rfl
@[simp] theorem setSmpValid_inc (v : Bool) (s : State) : (setSmpValid v s).inc = s.inc := rfl
@[simp] theorem setSmpValid_gain (v : Bool) (s : State) : (setSmpValid v s).gain = s.gain := rfl
@[simp] theorem setSmpValid_fifo (v : Bool) (s : State) : (setSmpValid v s).fifo = s.fifo := rfl
@[simp] theorem setSmpValid_out (v : Bool) (s : State) : (setSmpValid v s).out = s.out := rfl
@[simp] theorem setSmpValid_smpValid (v : Bool) (s : State) : (setSmpValid v s).smpValid = v := rfl
@[simp] theorem setSmpValid_pending (v : Bool) (s : State) : (setSmpValid v s).pending = s.pending := rfl
@[simp] theorem setSmpValid_applyLatch (v : Bool) (s : State) : (setSmpValid v s).applyLatch = s.applyLatch := rfl

@[simp] theorem setPending_cfg (rest : List Edge) (s : State) : (setPending rest s).cfg = s.cfg := rfl
@[simp] theorem setPending_phase (rest : List Edge) (s : State) : (setPending rest s).phase = s.phase := rfl
@[simp] theorem setPending_inc (rest : List Edge) (s : State) : (setPending rest s).inc = s.inc := rfl
@[simp] theorem setPending_gain (rest : List Edge) (s : State) : (setPending rest s).gain = s.gain := rfl
@[simp] theorem setPending_fifo (rest : List Edge) (s : State) : (setPending rest s).fifo = s.fifo := rfl
@[simp] theorem setPending_out (rest : List Edge) (s : State) : (setPending rest s).out = s.out := rfl
@[simp] theorem setPending_smpValid (rest : List Edge) (s : State) : (setPending rest s).smpValid = s.smpValid := rfl
@[simp] theorem setPending_pending (rest : List Edge) (s : State) : (setPending rest s).pending = rest := rfl
@[simp] theorem setPending_applyLatch (rest : List Edge) (s : State) : (setPending rest s).applyLatch = s.applyLatch := rfl

@[simp] theorem clearLatch_cfg (s : State) : (clearLatch s).cfg = s.cfg := rfl
@[simp] theorem clearLatch_phase (s : State) : (clearLatch s).phase = s.phase := rfl
@[simp] theorem clearLatch_inc (s : State) : (clearLatch s).inc = s.inc := rfl
@[simp] theorem clearLatch_gain (s : State) : (clearLatch s).gain = s.gain := rfl
@[simp] theorem clearLatch_fifo (s : State) : (clearLatch s).fifo = s.fifo := rfl
@[simp] theorem clearLatch_out (s : State) : (clearLatch s).out = s.out := rfl
@[simp] theorem clearLatch_smpValid (s : State) : (clearLatch s).smpValid = s.smpValid := rfl
@[simp] theorem clearLatch_pending (s : State) : (clearLatch s).pending = s.pending := rfl
@[simp] theorem clearLatch_applyLatch (s : State) : (clearLatch s).applyLatch = none := rfl

/-- The reset state of a configuration, field by field. -/
@[simp] theorem resetOf_cfg (c : Config) : (State.resetOf c).cfg = c := rfl
@[simp] theorem resetOf_phase (c : Config) : (State.resetOf c).phase = 0 := rfl
@[simp] theorem resetOf_inc (c : Config) : (State.resetOf c).inc = 0 := rfl
@[simp] theorem resetOf_gain (c : Config) : (State.resetOf c).gain = 0#7 := rfl
@[simp] theorem resetOf_fifo (c : Config) : (State.resetOf c).fifo = [] := rfl
@[simp] theorem resetOf_out (c : Config) : (State.resetOf c).out = 0 := rfl
@[simp] theorem resetOf_smpValid (c : Config) : (State.resetOf c).smpValid = false := rfl
@[simp] theorem resetOf_pending (c : Config) : (State.resetOf c).pending = [] := rfl
@[simp] theorem resetOf_applyLatch (c : Config) : (State.resetOf c).applyLatch = none := rfl

@[simp] theorem mapNext_next (g : State → State) (s : State) : mapNext g (.next s) = .next (g s) := rfl

end Sys2Proof.Machine
end

