-- ==== Sys2Proof/Laws/Ops.lean ====
section
/-! SUPPORT. What each shared operation does, said once: pushes, the applies, the sample. -/

namespace Sys2Proof.Machine

/-- A push keeps the newest CAP words (42_command_mapper.md R156). -/
theorem pushWord_eq_drop (cap : Nat) (l : List Cmd) (c : Cmd) (h1 : 1 ≤ cap) (h : l.length ≤ cap) :
    pushWord cap l c = (l ++ [c]).drop (l.length + 1 - cap) := by
  unfold pushWord
  split
  · rename_i h'
    rw [h', Nat.add_sub_cancel_left]
    cases l with
    | nil => simp at h'; omega
    | cons a l => rfl
  · rw [Nat.sub_eq_zero_of_le (by omega)]; rfl

/-- A push onto a channel that keeps the newest CAP words of a sequence keeps the newest CAP words of the longer one. -/
theorem pushWord_drop (cap : Nat) (u : List Cmd) (c : Cmd) (h1 : 1 ≤ cap) :
    pushWord cap (u.drop (u.length - cap)) c = (u ++ [c]).drop (u.length + 1 - cap) := by
  rw [pushWord_eq_drop _ _ _ h1 (by simp; omega)]
  by_cases h : u.length ≤ cap
  · rw [Nat.sub_eq_zero_of_le h]; simp
  · rw [← List.drop_append_of_le_length (by omega), List.drop_drop]
    congr 1
    simp
    omega

/-- A push never leaves more than CAP words, and its word is the newest. -/
theorem pushWord_length_le (cap : Nat) (l : List Cmd) (c : Cmd) (h1 : 1 ≤ cap) (h : l.length ≤ cap) :
    (pushWord cap l c).length ≤ cap := by
  rw [pushWord_eq_drop _ _ _ h1 h]; simp; omega

theorem mem_pushWord {cap : Nat} {l : List Cmd} {c x : Cmd} (h : x ∈ pushWord cap l c) : x ∈ l ∨ x = c := by
  unfold pushWord at h
  rcases List.mem_append.mp h with h | h
  · left
    split at h
    · exact List.mem_of_mem_tail h
    · exact h
  · right; simpa using h

/-- One apply as a record: which of PHASE, INC and GAIN it writes (43_render_loop.md R172, R173). -/
theorem applyWord_on (s : State) (c : Cmd) (h : cmdIsOn c = true) :
    applyWord s c = { s with phase := 0, inc := memReadNT s.cfg (cmdNote c), gain := cmdVel c } := by
  rw [applyWord, if_pos h]; rfl

theorem applyWord_off (s : State) (c : Cmd) (h : cmdIsOn c = false) : applyWord s c = { s with gain := 0#7 } := by
  rw [applyWord, if_neg (by simp [h])]; rfl

/-- A state after the same word was applied with other values of what an apply never writes. -/
@[simp] theorem applyWord_cfg (s : State) (c : Cmd) : (applyWord s c).cfg = s.cfg := by unfold applyWord; split <;> rfl
@[simp] theorem applyWord_fifo (s : State) (c : Cmd) : (applyWord s c).fifo = s.fifo := by unfold applyWord; split <;> rfl
@[simp] theorem applyWord_out (s : State) (c : Cmd) : (applyWord s c).out = s.out := by unfold applyWord; split <;> rfl
@[simp] theorem applyWord_smpValid (s : State) (c : Cmd) : (applyWord s c).smpValid = s.smpValid := by
  unfold applyWord; split <;> rfl
@[simp] theorem applyWord_pending (s : State) (c : Cmd) : (applyWord s c).pending = s.pending := by
  unfold applyWord; split <;> rfl
@[simp] theorem applyWord_applyLatch (s : State) (c : Cmd) : (applyWord s c).applyLatch = s.applyLatch := by
  unfold applyWord; split <;> rfl

@[simp] theorem applyAll_nil (s : State) : applyAll [] s = s := rfl
@[simp] theorem applyAll_cons (c : Cmd) (ws : List Cmd) (s : State) : applyAll (c :: ws) s = applyAll ws (applyWord s c) := rfl
theorem applyAll_append (us ws : List Cmd) (s : State) : applyAll (us ++ ws) s = applyAll ws (applyAll us s) :=
  List.foldl_append

/-- The loop writes PHASE, INC and GAIN only. -/
@[simp] theorem applyAll_cfg (ws : List Cmd) (s : State) : (applyAll ws s).cfg = s.cfg := by
  induction ws generalizing s with
  | nil => rfl
  | cons c ws ih => simp [ih]
@[simp] theorem applyAll_fifo (ws : List Cmd) (s : State) : (applyAll ws s).fifo = s.fifo := by
  induction ws generalizing s with
  | nil => rfl
  | cons c ws ih => simp [ih]
@[simp] theorem applyAll_out (ws : List Cmd) (s : State) : (applyAll ws s).out = s.out := by
  induction ws generalizing s with
  | nil => rfl
  | cons c ws ih => simp [ih]
@[simp] theorem applyAll_smpValid (ws : List Cmd) (s : State) : (applyAll ws s).smpValid = s.smpValid := by
  induction ws generalizing s with
  | nil => rfl
  | cons c ws ih => simp [ih]
@[simp] theorem applyAll_pending (ws : List Cmd) (s : State) : (applyAll ws s).pending = s.pending := by
  induction ws generalizing s with
  | nil => rfl
  | cons c ws ih => simp [ih]
@[simp] theorem applyAll_applyLatch (ws : List Cmd) (s : State) : (applyAll ws s).applyLatch = s.applyLatch := by
  induction ws generalizing s with
  | nil => rfl
  | cons c ws ih => simp [ih]

/-- The loop as one record: it writes PHASE, INC and GAIN and nothing else (10_state.md R34). -/
theorem applyAll_writes (ws : List Cmd) (s : State) :
    applyAll ws s =
      { s with phase := (applyAll ws s).phase, inc := (applyAll ws s).inc, gain := (applyAll ws s).gain } := by
  induction ws generalizing s with
  | nil => rfl
  | cons c ws ih =>
    rw [applyAll_cons]
    conv_lhs => rw [ih]
    simp

/-- The last word is applied last (43_render_loop.md R174). -/
theorem applyAll_concat (ws : List Cmd) (c : Cmd) (s : State) :
    applyAll (ws ++ [c]) s = applyWord (applyAll ws s) c := by
  rw [applyAll_append]
  rfl

/-- NEXT_SAMPLE, field by field (41_oscillator.md R128). -/
@[simp] theorem nextSample_cfg (s : State) : (nextSample s).cfg = s.cfg := rfl
@[simp] theorem nextSample_phase (s : State) : (nextSample s).phase = advance s.cfg s.phase s.inc := rfl
@[simp] theorem nextSample_inc (s : State) : (nextSample s).inc = s.inc := rfl
@[simp] theorem nextSample_gain (s : State) : (nextSample s).gain = s.gain := rfl
@[simp] theorem nextSample_fifo (s : State) : (nextSample s).fifo = s.fifo := rfl
@[simp] theorem nextSample_out (s : State) : (nextSample s).out = sampleOf s := rfl
@[simp] theorem nextSample_smpValid (s : State) : (nextSample s).smpValid = s.smpValid := rfl
@[simp] theorem nextSample_pending (s : State) : (nextSample s).pending = s.pending := rfl
@[simp] theorem nextSample_applyLatch (s : State) : (nextSample s).applyLatch = s.applyLatch := rfl

/-- A table read inside the table answers one of its entries (20_memory.md R51). -/
theorem memReadWT_mem (c : Config) (i : Nat) (h : i < c.table.length) : memReadWT c i ∈ c.table := by
  simp [memReadWT, h]

/-- `value_at` inside the table is the plain read (40_wavetable.md R115). -/
theorem valueAt_of_lt (c : Config) (i : Nat) (h : i < c.n) : valueAt c i = memReadWT c i := by
  have e : floorMod (i : Int) c.n = i := by
    unfold floorMod
    rw [Int.emod_eq_of_lt (by omega) (by omega)]
    rfl
  rw [valueAt, e]

/-- A read of the ROM of a legal configuration answers the entry of the note (20_memory.md R52, 41_oscillator.md R122). -/
theorem memReadNT_of_wf (c : Config) (h : c.Wf) (n : Data7) : memReadNT c n = ntEntry c.toParams n.toNat := by
  have hn : n.toNat < 128 := n.isLt
  have e : c.nt = ntRom c.toParams := h.2.2.2.1
  rw [memReadNT, e, ntRom_getElem? _ _ hn, Option.getD_some]

/-- A read of the ROM of a legal configuration fits INC. -/
theorem memReadNT_lt (c : Config) (h : c.Wf) (n : Data7) : memReadNT c n < 2 ^ c.iw := by
  have hn : n.toNat < 128 := n.isLt
  rw [memReadNT_of_wf c h]
  refine h.2.2.2.2 _ ?_
  rw [h.2.2.2.1]
  exact List.mem_map.mpr ⟨_, List.mem_range.mpr hn, rfl⟩

/-- A PHASE below M has its index inside the table (10_state.md R25). -/
theorem phaseIndex_lt (c : Config) (p : Nat) (h : p < modulus c.toParams) : p / 2 ^ c.f < c.n := by
  rw [Nat.div_lt_iff_lt_mul (by positivity)]
  exact h

/-- The interpolation, its definitions unfolded (41_oscillator.md R129). -/
theorem lerp_eq (c : Config) (p : Nat) :
    lerp c p = memReadWT c (p / 2 ^ c.f) +
      (memReadWT c ((p / 2 ^ c.f + 1) % c.n) - memReadWT c (p / 2 ^ c.f)) * ((p % 2 ^ c.f : Nat) : Int) / 2 ^ c.f := by
  simp [lerp, phaseIndex, phaseFraction, shiftRightFloor, floorDiv]

/-- The gain never enlarges a magnitude (41_oscillator.md R130 (d)). -/
theorem abs_applyGain_le (l : Int) (g : Data7) : |applyGain l g| ≤ |l| := by
  have hg : g.toNat < 128 := g.isLt
  unfold applyGain tdiv
  rw [Int.abs_eq_natAbs, Int.abs_eq_natAbs, Int.natAbs_tdiv, Int.natAbs_mul]
  simp only [Int.natAbs_natCast]
  have : l.natAbs * g.toNat / (Int.natAbs 127) ≤ l.natAbs := by
    apply Nat.div_le_of_le_mul
    show _ ≤ 127 * _
    rw [mul_comm]
    exact Nat.mul_le_mul_right _ (by omega)
  exact_mod_cast this

@[simp] theorem applyGain_zero (l : Int) : applyGain l 0#7 = 0 := by simp [applyGain, tdiv]

end Sys2Proof.Machine
end

