-- ==== Sys2Proof/Laws/PerInstr.lean ====
section
/-! SUPPORT. Statements about every operation, one lemma per constructor of `Instr`. -/

namespace Sys2Proof.Laws

/-- The encoder presents an operation in the format of its row (30_encoding.md R80). -/
def PresentsFormat.Statement (i : Instr) : Prop := (encode i).format = i.format

theorem PresentsFormat.msgNoteOn (c : Chan) (n v : Data7) : PresentsFormat.Statement (.msgNoteOn c n v) := rfl
theorem PresentsFormat.msgNoteOnV0 (c : Chan) (n : Data7) : PresentsFormat.Statement (.msgNoteOnV0 c n) := rfl
theorem PresentsFormat.msgNoteOff (c : Chan) (n r : Data7) : PresentsFormat.Statement (.msgNoteOff c n r) := rfl
theorem PresentsFormat.msgIgnLen (l : Nat) (b0 b1 b2 : Byte) : PresentsFormat.Statement (.msgIgnLen l b0 b1 b2) := rfl
theorem PresentsFormat.msgIgnNoStatus (b0 b1 b2 : Byte) : PresentsFormat.Statement (.msgIgnNoStatus b0 b1 b2) := rfl
theorem PresentsFormat.msgIgnStatusAB (b0 b1 b2 : Byte) : PresentsFormat.Statement (.msgIgnStatusAB b0 b1 b2) := rfl
theorem PresentsFormat.msgIgnStatusCF (b0 b1 b2 : Byte) : PresentsFormat.Statement (.msgIgnStatusCF b0 b1 b2) := rfl
theorem PresentsFormat.msgIgnDataB1 (b0 b1 b2 : Byte) : PresentsFormat.Statement (.msgIgnDataB1 b0 b1 b2) := rfl
theorem PresentsFormat.msgIgnDataB2 (b0 b1 b2 : Byte) : PresentsFormat.Statement (.msgIgnDataB2 b0 b1 b2) := rfl
theorem PresentsFormat.cmdNoteOn (n v : Data7) : PresentsFormat.Statement (.cmdNoteOn n v) := rfl
theorem PresentsFormat.cmdNoteOff (n v : Data7) : PresentsFormat.Statement (.cmdNoteOff n v) := rfl
theorem PresentsFormat.sample : PresentsFormat.Statement (.sample) := rfl
theorem PresentsFormat.reset : PresentsFormat.Statement (.reset) := rfl

end Sys2Proof.Laws
end

