-- ==== Sys2Proof/Laws/Reference.lean ====
section
/-! SUPPORT. Small facts about the reference formulas over the reals (00_scope.md R16). -/

namespace Sys2Proof.Reference

open Sys2Proof.Machine

/-- Rounding an integer away from zero gives it back (00_scope.md R13). -/
theorem roundHalfAwayReal_intCast (k : ℤ) : roundHalfAwayReal (k : ℝ) = k := by
  have half : ∀ j : ℤ, ⌊(j : ℝ) + 1 / 2⌋ = j := by
    intro j
    rw [Int.floor_eq_iff]
    constructor <;> linarith
  unfold roundHalfAwayReal
  split
  · exact half k
  · have h := half (-k)
    rw [Int.cast_neg] at h
    rw [h, neg_neg]

/-- A reference value of 0 or more rounds to the floor of it plus 1/2. -/
theorem roundHalfAwayReal_of_nonneg {x : ℝ} (h : 0 ≤ x) : roundHalfAwayReal x = ⌊x + 1 / 2⌋ := if_pos h

/-- An entry of a quantized table through `value_at` (40_wavetable.md R111, R115). -/
theorem valueAt_of_quantizes {c : Config} {x : Nat → ℝ} (h : Quantizes c x) {i : Nat} (hi : i < c.n) :
    valueAt c i = roundHalfAwayReal (x i * 2 ^ c.sf) := by
  rw [valueAt_of_lt c i hi, h.2 i hi]

/-- Every table quantizes its own entries read as reals (40_wavetable.md R110: a table may be given directly). -/
theorem quantizes_own_entries (c : Config) (h : c.table.length = c.n) :
    Quantizes c (fun i => (memReadWT c i : ℝ) / 2 ^ c.sf) := by
  refine ⟨h, fun i _ => ?_⟩
  rw [div_mul_cancel₀ _ (by positivity), roundHalfAwayReal_intCast]

/-- The table of the rounded reference values quantizes them (40_wavetable.md R110, R111). -/
theorem quantizes_rounded (c : Config) (x : Nat → ℝ) :
    Quantizes { c with table := (List.range c.n).map (fun i => roundHalfAwayReal (x i * 2 ^ c.sf)) } x := by
  refine ⟨by simp, fun i hi => ?_⟩
  have hi' : i < c.n := hi
  simp [memReadWT, hi']

/-- The sine at index floor(N/4) is the cosine of its distance from the peak (40_wavetable.md R117). -/
theorem sineValue_quarter (n : Nat) (h : 2 ≤ n) :
    sineValue n (n / 4) = Real.cos (Real.pi * ((n % 4 : Nat) : ℝ) / (2 * n)) := by
  have hn : (n : ℝ) ≠ 0 := by positivity
  have e : (n : ℝ) = 4 * ((n / 4 : Nat) : ℝ) + ((n % 4 : Nat) : ℝ) := by exact_mod_cast (Nat.div_add_mod n 4).symm
  rw [sineValue, ← Real.sin_pi_div_two_sub]
  congr 1
  field_simp
  linear_combination (-1 : ℝ) * e

end Sys2Proof.Reference
end

