-- ==== Sys2Proof/Laws/Step.lean ====
section
/-! SUPPORT. The step, case by case: what it runs from the latch, at an idle edge and at an edge of the schedule, and how a
run and its observation unfold by one step. -/

namespace Sys2Proof.Machine

theorem step_of_latch (s : State) (w : Cmd) (h : s.applyLatch = some w) : step s = applyLatched w s := by
  unfold step; rw [h]

theorem step_of_idle (s : State) (h : s.applyLatch = none) (hp : s.pending = []) : step s = idleEdge s := by
  unfold step; rw [h, hp]

theorem step_of_edge (s : State) (e : Edge) (rest : List Edge) (h : s.applyLatch = none) (hp : s.pending = e :: rest) :
    step s = clockEdge e (setPending rest s) := by
  unfold step; rw [h, hp]

/-- What a step is, in every state: the latched word, an idle edge, or the head of the schedule. -/
theorem step_cases (s : State) :
    (∃ w, s.applyLatch = some w ∧ step s = applyLatched w s) ∨
    (s.applyLatch = none ∧ s.pending = [] ∧ step s = idleEdge s) ∨
    (∃ e rest, s.applyLatch = none ∧ s.pending = e :: rest ∧ step s = clockEdge e (setPending rest s)) := by
  rcases hl : s.applyLatch with _ | w
  · rcases hp : s.pending with _ | ⟨e, rest⟩
    · exact .inr (.inl ⟨rfl, rfl, step_of_idle s hl hp⟩)
    · exact .inr (.inr ⟨e, rest, rfl, rfl, step_of_edge s e rest hl hp⟩)
  · exact .inl ⟨w, rfl, step_of_latch s w hl⟩

/-- The six kinds of edge (70_reset_and_hazards.md R231). -/
theorem clockEdge_reset (q : Bool) (m : Option Message) (s : State) :
    clockEdge ⟨true, q, m⟩ s = mapNext (setSmpValid false) (exec .reset s) := rfl

theorem clockEdge_none (s : State) : clockEdge ⟨false, false, none⟩ s = .next (setSmpValid false s) := rfl

theorem clockEdge_pull (s : State) :
    clockEdge ⟨false, true, none⟩ s = mapNext (setSmpValid true) (exec .sample s) := rfl

theorem clockEdge_message (m : Message) (s : State) :
    clockEdge ⟨false, false, some m⟩ s =
      mapNext (setSmpValid false) (runOps [decode (.msg m.len m.b0 m.b1 m.b2)] s) := rfl

theorem clockEdge_both (m : Message) (s : State) :
    clockEdge ⟨false, true, some m⟩ s =
      mapNext (setSmpValid true) (runOps [decode (.msg m.len m.b0 m.b1 m.b2)] (nextSample (applyAll s.fifo (drained s)))) :=
  rfl

theorem runOps_one (i : Instr) (s t : State) (h : exec i s = .next t) : runOps [i] s = .next t := by
  simp [runOps, h]

theorem exec_sample (s : State) : exec .sample s = .next (nextSample (applyAll s.fifo (drained s))) := rfl

theorem exec_reset (s : State) : exec .reset s = .next (clearAll s) := rfl

/-- A run of k + 1 steps is one step and a run of k. -/
theorem stateAfter_succ (k : Nat) (s t : State) (h : step s = .next t) : stateAfter (k + 1) s = stateAfter k t := by
  have e : Host.Core.run Sys2Proof.core (k + 1) s = Host.Core.run Sys2Proof.core k t := by
    have h' : Sys2Proof.core.step s = .next t := h
    simp only [Host.Core.run]
    rw [h']
  unfold stateAfter
  rw [e]

theorem observe_succ (k : Nat) (s t : State) (h : step s = .next t) :
    observe (k + 1) s = (if t.smpValid then [t.out] else []) ++ observe k t := by
  simp [observe, h]

@[simp] theorem stateAfter_zero (s : State) : stateAfter 0 s = some s := rfl

@[simp] theorem observe_zero (s : State) : observe 0 s = [] := rfl

end Sys2Proof.Machine
end

