-- ==== Sys2Proof/Tests/Slice0.lean ====
section
/-! SUPPORT. Tests. Expected values come from spec/95_test_vectors.md (the vector is named at each test) or from the encodings
of spec/30_encoding.md written out bit by bit. The last part gives, for every obligation with hypotheses, values that meet
them. -/

namespace Sys2Proof.Tests

open Sys2Proof Sys2Proof.Machine Sys2Proof.Reference

/-- A state of the default instance: (PHASE, INC, GAIN, OUT, FIFO) as 95_test_vectors.md writes it. -/
def mk (phase inc : Nat) (gain : Data7) (out : Int) (fifo : List Cmd) : State :=
  { State.reset with phase := phase, inc := inc, gain := gain, out := out, fifo := fifo }

/-- The same state with another capacity. -/
def withCap (cap : Nat) (s : State) : State := { s with cfg := { s.cfg with cap := cap } }

/-- What a test looks at: PHASE, INC, GAIN, OUT, FIFO and smp_valid. -/
structure View where
  phase : Nat
  inc : Nat
  gain : Nat
  out : Int
  fifo : List Nat
  smpValid : Bool
  deriving DecidableEq, Repr

/-- The view of an outcome that is a next state. -/
def view : Result → Option View
  | .next s => some ⟨s.phase, s.inc, s.gain.toNat, s.out, s.fifo.map BitVec.toNat, s.smpValid⟩
  | .fault _ => none
  | .refused _ => none

/-! ### Well-formedness refuses ill-formed operations -/

theorem test_wf_refuses_zero_velocity : (Instr.msgNoteOn 0#4 60#7 0#7).wf 8 = false := by decide
theorem test_wf_refuses_length_three : (Instr.msgIgnLen 3 0x90#8 0#8 0#8).wf 8 = false := by decide
theorem test_wf_refuses_wide_length : (Instr.msgIgnLen 256 0x90#8 0#8 0#8).wf 8 = false := by decide
theorem test_wf_refuses_status_as_nostatus : (Instr.msgIgnNoStatus 0x80#8 0#8 0#8).wf 8 = false := by decide
theorem test_wf_refuses_other_kind_as_ab :
    (Instr.msgIgnStatusAB 0x9F#8 0#8 0#8).wf 8 = false ∧ (Instr.msgIgnStatusAB 0xC0#8 0#8 0#8).wf 8 = false := by decide
theorem test_wf_refuses_other_kind_as_cf : (Instr.msgIgnStatusCF 0xBF#8 0#8 0#8).wf 8 = false := by decide
theorem test_wf_refuses_data_b1 :
    (Instr.msgIgnDataB1 0xA0#8 0x80#8 0#8).wf 8 = false ∧ (Instr.msgIgnDataB1 0x90#8 0x7F#8 0x80#8).wf 8 = false := by decide
theorem test_wf_refuses_data_b2 :
    (Instr.msgIgnDataB2 0x70#8 0#8 0x80#8).wf 8 = false ∧ (Instr.msgIgnDataB2 0x90#8 0x80#8 0x80#8).wf 8 = false ∧
    (Instr.msgIgnDataB2 0x80#8 0#8 0x7F#8).wf 8 = false := by decide

/-! ### Every constructor decodes from a word written out (30_encoding.md R81, R83, R87; V-DEC) -/

theorem test_decode_note_on : decodeTableWord 24 0b1001_1111_0000_0000_0000_0001 = some (.msgNoteOn 0xF#4 0#7 1#7) := by decide
theorem test_decode_note_on_v0 : decodeTableWord 24 0b1001_0101_0011_1100_0000_0000 = some (.msgNoteOnV0 5#4 60#7) := by decide
theorem test_decode_note_off : decodeTableWord 24 0b1000_1010_0111_1111_0100_0000 = some (.msgNoteOff 0xA#4 127#7 64#7) := by
  decide
theorem test_decode_ign_len : decode (.msg 2 0b1001_0000#8 0b0011_1100#8 0b0100_0000#8) = .msgIgnLen 2 0x90#8 60#8 64#8 ∧
    decodeTableWord 32 0b0000_0100_1001_0000_0011_1100_0100_0000 = some (.msgIgnLen 4 0x90#8 60#8 64#8) := by decide
theorem test_decode_ign_nostatus : decodeTableWord 24 0b0111_1111_0011_1100_0100_0000 = some (.msgIgnNoStatus 0x7F#8 60#8 64#8) := by
  decide
theorem test_decode_ign_status_ab : decodeTableWord 24 0b1010_0000_0011_1100_0100_0000 = some (.msgIgnStatusAB 0xA0#8 60#8 64#8) := by
  decide
theorem test_decode_ign_status_cf : decodeTableWord 24 0b1100_0000_0000_0101_0000_0000 = some (.msgIgnStatusCF 0xC0#8 5#8 0#8) := by
  decide
theorem test_decode_ign_data_b1 : decodeTableWord 24 0b1001_0000_1000_0000_0100_0000 = some (.msgIgnDataB1 0x90#8 0x80#8 64#8) := by
  decide
theorem test_decode_ign_data_b2 : decodeTableWord 24 0b1000_0000_0011_1100_1000_0000 = some (.msgIgnDataB2 0x80#8 60#8 0x80#8) := by
  decide
theorem test_decode_cmd_note_on : decodeTableWord 16 0b101_1110_0110_0100 = some (.cmdNoteOn 60#7 100#7) := by decide
theorem test_decode_cmd_note_off : decodeTableWord 16 0b000_0110_0000_0000 = some (.cmdNoteOff 12#7 0#7) := by decide
theorem test_decode_ports : decode .pull = .sample ∧ decode .rst = .reset ∧
    decodeTableWord 8 1 = some .sample ∧ decodeTableWord 8 2 = some .reset := by decide
theorem test_decode_refuses_by_name : decodeWord 24 0x1000000 = .error .bitsBeyondFormat ∧
    decodeWord 16 0x8000 = .error .bitsBeyondFormat ∧ decodeWord 8 0 = .error .nothingRequested ∧
    decodeWord 12 0 = .error .unknownWidth := by
  refine ⟨rfl, rfl, rfl, rfl⟩

/-! ### One step of each operation -/

/-- V-DEC: `MSG 0x9F, 0, 1` pushes 0x4001. -/
theorem test_note_on_any_channel :
    view (exec (decode (.msg 3 0x9F#8 0#8 1#8)) State.reset) = some ⟨0, 0, 0, 0, [0x4001], false⟩ := by decide
/-- V-FIFO: with CAP = 4 a fifth push evicts the first word. -/
theorem test_note_on_evicts_oldest :
    view (exec (.msgNoteOn 0#4 8#7 1#7) (withCap 4 (mk 0 0 0#7 0 [0x4201#15, 0x4281#15, 0x4301#15, 0x4381#15]))) =
      some ⟨0, 0, 0, 0, [0x4281, 0x4301, 0x4381, 0x4401], false⟩ := by decide
/-- V-DEC: `MSG 0x95, 60, 0` pushes 0x1E00. -/
theorem test_note_on_v0_pushes_note_off :
    view (exec (decode (.msg 3 0x95#8 60#8 0#8)) State.reset) = some ⟨0, 0, 0, 0, [0x1E00], false⟩ := by decide
/-- V-DEC: `MSG 0x8A, 127, 127` pushes 0x3F80. -/
theorem test_note_off_ignores_release_velocity :
    view (exec (decode (.msg 3 0x8A#8 127#8 127#8)) State.reset) = some ⟨0, 0, 0, 0, [0x3F80], false⟩ := by decide
/-- V-FIFO: CAP = 1, `NOTEON 60,100; NOTEOFF 60` leaves [0x1E00]. -/
theorem test_note_off_capacity_one :
    view (exec (.msgNoteOff 0#4 60#7 0#7) (withCap 1 (mk 0 0 0#7 0 [0x5E64#15]))) = some ⟨0, 0, 0, 0, [0x1E00], false⟩ := by decide

/-- V-FIFO: a full FIFO and an ignored message of each class. -/
theorem test_ignored_keeps_full_fifo (s : State) (h : s = withCap 1 (mk 5 6 7#7 8 [0x5E64#15])) :
    exec (decode (.msg 4 0x90#8 60#8 64#8)) s = .next s ∧ exec (decode (.msg 3 0x3C#8 0x40#8 0#8)) s = .next s ∧
    exec (decode (.msg 3 0xB0#8 7#8 100#8)) s = .next s ∧ exec (decode (.msg 3 0xFF#8 0#8 0#8)) s = .next s ∧
    exec (decode (.msg 3 0x90#8 0x80#8 64#8)) s = .next s ∧ exec (decode (.msg 3 0x90#8 60#8 0x80#8)) s = .next s := by
  subst h; exact ⟨rfl, rfl, rfl, rfl, rfl, rfl⟩

/-- V-APPLY: 0x62FF from (123456, 41848, 127, x) restarts the phase. -/
theorem test_cmd_note_on_retriggers :
    view (exec (decode (.cmd 0x62FF#15)) (mk 123456 41848 127#7 99 [])) = some ⟨0, 41848, 127, 99, [], false⟩ := by decide
/-- V-APPLY: the unreachable word 0x4000 applies as written. -/
theorem test_cmd_note_on_zero_velocity :
    view (exec (decode (.cmd 0x4000#15)) (mk 123456 41848 127#7 99 [])) = some ⟨0, 778, 0, 99, [], false⟩ := by decide
/-- V-APPLY: 0x0600 clears GAIN only. -/
theorem test_cmd_note_off_keeps_phase :
    view (exec (decode (.cmd 0x0600#15)) (mk 123456 41848 127#7 99 [])) = some ⟨123456, 41848, 0, 99, [], false⟩ := by decide

/-- V-NS: PHASE 4161536, INC 1234, GAIN 100 (the wrap to T[0], truncation of a negative product). -/
theorem test_sample_wraps_and_truncates :
    view (exec .sample (mk 4161536 1234 100#7 0 [])) = some ⟨4162770, 1234, 100, -161855, [], false⟩ := by decide
/-- V-BAT-2, first render step: [NoteOff{60}, NoteOn{69,127}] in one drain. -/
theorem test_sample_applies_in_order :
    view (exec .sample (mk 0 0 0#7 0 [0x1E00#15, 0x62FF#15])) = some ⟨41848, 41848, 127, 0, [], false⟩ := by decide
/-- V-RESET: a sounding note with a pending NoteOff. -/
theorem test_reset_clears_all :
    view (exec .reset (mk 83696 41848 127#7 262516 [0x2280#15])) = some ⟨0, 0, 0, 0, [], false⟩ := by decide

/-- V-CYC, edge 1: reset discards the message and the pull of its edge. -/
theorem test_edge_reset_first :
    view (step { mk 1 2 3#7 4 [0x2280#15] with pending := [⟨true, true, some ⟨3, 0x90#8, 0x45#8, 0x7F#8⟩⟩] }) =
      some ⟨0, 0, 0, 0, [], false⟩ := by decide
/-- V-CYC, edge 5: the render step before the accept step. -/
theorem test_edge_render_before_accept :
    view (step { mk 83696 41848 127#7 262516 [] with pending := [⟨false, true, some ⟨3, 0x80#8, 0x45#8, 0#8⟩⟩] }) =
      some ⟨125544, 41848, 127, 523936, [0x2280], true⟩ := by decide
/-- V-CYC, edge 6: nothing presented. -/
theorem test_edge_idle :
    view (step { mk 125544 41848 127#7 523936 [0x2280#15] with smpValid := true }) =
      some ⟨125544, 41848, 127, 523936, [0x2280], false⟩ := by decide

/-- A word placed where the next step takes its operation runs (L1-5 for the command, V-DEC for the message). -/
theorem test_fetch_word_runs :
    view (step (State.reset.withFetchWord 24 0x90457F)) = some ⟨0, 0, 0, 0, [0x62FF], false⟩ ∧
    view (step (State.reset.withFetchWord 16 0x62FF)) = some ⟨0, 41848, 127, 0, [], false⟩ ∧
    view (step (State.reset.withFetchWord 8 1)) = some ⟨0, 0, 0, 0, [], true⟩ := by decide

/-! ### Arithmetic and construction -/

/-- V-LERP, V-GAIN, V-ADV: the floor, the truncation and the wrap. -/
theorem test_arithmetic :
    lerp defaultConfig 2097153 = -7 ∧ lerp defaultConfig 340025 = 2043684 ∧ applyGain (-7) 64#7 = -3 ∧
    applyGain (-126) 1#7 = 0 ∧ advance defaultConfig 4194303 4294967295 = 4194302 := by decide
/-- V-WT: value_at at negative and large indices. -/
theorem test_value_at : valueAt defaultConfig (-64) = 0 ∧ valueAt defaultConfig 130 = 818268 ∧ tableLength defaultConfig = 64 := by
  decide
/-- 40_wavetable.md R111: rounding of reference values away from zero, 2.5 and −2.5 at SF = 0. -/
theorem test_quantize : quantize 0 (5, 2) = 3 ∧ quantize 0 (-5, 2) = -3 ∧ quantize 22 (1, 1) = 4194304 := by decide
/-- 41_oscillator.md R123: the printed ROM is the computed one. -/
theorem test_default_rom : defaultNt = ntRom defaultParams := by decide +kernel
theorem test_default_rom_fits : ∀ x ∈ defaultNt, x < 2 ^ 32 := by decide +kernel
theorem test_default_table_fits : ∀ x ∈ defaultTable, SampleInRange 24 x := by decide +kernel
theorem test_default_config : defaultConfig.Wf :=
  ⟨by decide, rfl, test_default_table_fits, test_default_rom, test_default_rom_fits⟩
/-- 40_wavetable.md R113 and 41_oscillator.md R122: refusals by name. -/
theorem test_construct_refuses :
    construct { defaultParams with n := 1 } (.given [0]) = .error .tableTooShort ∧
    tableProblem { defaultParams with n := 2 } [0, 8388608] = some .tableEntry ∧
    ntProblem { defaultParams with iw := 4 } [15, 16] = some .noteIncrement := by
  refine ⟨rfl, by decide, by decide⟩

/-! ### Witnesses: values that meet the hypotheses of each obligation -/

/-- A sounding state at the last phase before the wrap, and a channel filled to its capacity of 1. -/
def sounding : State := mk 4194303 41848 127#7 262516 []
def full1 : State := withCap 1 (mk 0 0 0#7 0 [0x5E64#15])

/-- A two-entry instance whose table holds the lowest sample of its width. -/
def smallParams : Params := { n := 2, fs := 1, cap := 1, f := 1, iw := 16, sw := 2, sf := 1, lw := 2 }
def smallConfig : Config := { toParams := smallParams, table := [-2, 1], nt := ntRom smallParams }

theorem test_small_rom_fits : ∀ x ∈ ntRom smallParams, x < 2 ^ 16 := by decide +kernel
theorem test_small_config : smallConfig.Wf := ⟨by decide, rfl, by decide, rfl, test_small_rom_fits⟩

theorem test_witness_sounding_wf : sounding.Wf :=
  ⟨test_default_config, by decide, by decide, by decide, by decide, by decide⟩

/-- DecodeOfEncodeIsTheInstruction, TableWordsDecodeBack: every constructor has well-formed operations, at the ends of their
ranges. -/
theorem test_witness_wf :
    (Instr.msgNoteOn 15#4 127#7 1#7).wf 2 = true ∧ (Instr.msgNoteOnV0 0#4 0#7).wf 2 = true ∧
    (Instr.msgNoteOff 15#4 0#7 127#7).wf 2 = true ∧ (Instr.msgIgnLen 255 0xFF#8 0#8 0#8).wf 8 = true ∧
    (Instr.msgIgnLen 0 0x90#8 0#8 0#8).wf 2 = true ∧ (Instr.msgIgnNoStatus 0x7F#8 0#8 0#8).wf 2 = true ∧
    (Instr.msgIgnStatusAB 0xBF#8 0#8 0#8).wf 2 = true ∧ (Instr.msgIgnStatusCF 0xC0#8 0#8 0#8).wf 2 = true ∧
    (Instr.msgIgnDataB1 0x8F#8 0x80#8 0xFF#8).wf 2 = true ∧ (Instr.msgIgnDataB2 0x90#8 0x7F#8 0x80#8).wf 2 = true ∧
    (Instr.cmdNoteOn 0#7 0#7).wf 2 = true ∧ (Instr.cmdNoteOff 0#7 127#7).wf 2 = true ∧
    Instr.sample.wf 2 = true ∧ Instr.reset.wf 2 = true := by decide

/-- EncodeOfDecodeIsThePresentation. -/
theorem test_witness_fits : (Presented.msg 255 0x90#8 0#8 0#8).fits 8 = true ∧ (Presented.msg 3 0x90#8 0#8 0#8).fits 2 = true := by
  decide

/-- DecodeMapByPriorityAndMasks: a length and bytes at the boundary of each clause, in the order of the statement. -/
theorem test_witness_decode_map :
    2 ≠ 3 ∧ (0x7F#8).toNat < 128 ∧
    (128 ≤ (0xA0#8).toNat ∧ (0xA0#8).toNat / 16 ≠ 8 ∧ (0xA0#8).toNat / 16 ≠ 9) ∧
    (((0x80#8).toNat / 16 = 8 ∨ (0x80#8).toNat / 16 = 9) ∧ (128 ≤ (0x80#8).toNat ∨ 128 ≤ (0x00#8).toNat)) ∧
    ((0x90#8).toNat / 16 = 9 ∧ (0x7F#8).toNat < 128 ∧ (0x00#8).toNat = 0) ∧
    ((0x9F#8).toNat / 16 = 9 ∧ (0x7F#8).toNat < 128 ∧ 0 < (0x01#8).toNat ∧ (0x01#8).toNat < 128) ∧
    ((0x8F#8).toNat / 16 = 8 ∧ (0x7F#8).toNat < 128 ∧ (0x7F#8).toNat < 128) ∧
    messageWord 0x90#8 0x7F#8 0x00#8 &&& 0xF080FF#24 = 0x900000#24 ∧
    (messageWord 0x9F#8 0x00#8 0x01#8 &&& 0xF080FF#24 ≠ 0x900000#24 ∧
      messageWord 0x9F#8 0x00#8 0x01#8 &&& 0xF08080#24 = 0x900000#24) ∧
    messageWord 0x8F#8 0x7F#8 0x7F#8 &&& 0xF08080#24 = 0x800000#24 ∧
    (messageWord 0x90#8 0x80#8 0x00#8 &&& 0xF08080#24 ≠ 0x900000#24 ∧
      messageWord 0x90#8 0x80#8 0x00#8 &&& 0xF08080#24 ≠ 0x800000#24) := by decide

/-- NoteOnMessagePushesItsWord, PseudoOperationsExpand: the least and the largest velocity. -/
theorem test_witness_velocity : (1#7 : Data7) ≠ 0#7 ∧ (127#7 : Data7) ≠ 0#7 := by decide

/-- IgnoredMessagesChangeNothing: one message for each way of not being recognised, next to one that is. -/
theorem test_witness_ignored :
    ¬ (2 = 3) ∧ ¬ ((0x7F#8).toNat / 16 = 8 ∨ (0x7F#8).toNat / 16 = 9) ∧
    ¬ ((0xA0#8).toNat / 16 = 8 ∨ (0xA0#8).toNat / 16 = 9) ∧ ¬ ((0x80#8).toNat < 128) ∧ (0x7F#8).toNat < 128 := by decide

/-- PushEvictsOnlyTheOldest: a pushing operation on a full channel of capacity 1 and on an empty one. -/
theorem test_witness_push :
    (Instr.msgNoteOff 0#4 0#7 0#7).priority.isSome = true ∧ (Instr.msgNoteOff 0#4 0#7 0#7).ignored = false ∧
    1 ≤ full1.cfg.cap ∧ full1.fifo.length ≤ full1.cfg.cap ∧ State.reset.fifo.length ≤ State.reset.cfg.cap := by decide

/-- OverflowKeepsTheLatestCommands. -/
theorem test_witness_overflow : 1 ≤ (withCap 1 State.reset).cfg.cap ∧ (withCap 1 State.reset).fifo = [] := by decide

/-- NoteOnApplySetsPhaseIncrementAndGain, NoteOffApplySilences: words of each kind, and a legal configuration. -/
theorem test_witness_apply :
    0x4000#15 &&& 0x4000#15 = 0x4000#15 ∧ 0x7FFF#15 &&& 0x4000#15 = 0x4000#15 ∧ 0x3FFF#15 &&& 0x4000#15 = 0#15 ∧
    State.reset.cfg.Wf := ⟨by decide, by decide, by decide, test_default_config⟩

/-- CommandsApplyOnceInArrivalOrder: a channel that the messages just fill. -/
theorem test_witness_commands_apply_once :
    let s := withCap 2 (mk 0 0 0#7 0 [0x1E00#15])
    let ms : List Message := [⟨3, 0x90#8, 69#8, 127#8⟩, ⟨2, 0x90#8, 1#8, 1#8⟩]
    (s.fifo ++ ms.filterMap (fun m => commandOf m.len m.b0 m.b1 m.b2)).length ≤ s.cfg.cap ∧
    ∃ t, acceptAll ms s = .next t := ⟨by decide, _, rfl⟩

/-- SilenceUntilADrainEndsWithNoteOn: a drain that ends with a NoteOff, and a silent run over a pull, a NoteOff message and
another pull. -/
theorem test_witness_silence :
    (∃ c, (mk 0 0 127#7 0 [0x62FF#15, 0x0600#15]).fifo.getLast? = some c ∧ cmdIsOn c = false) ∧
    (let s : State := { mk 5 41848 0#7 0 [] with pending := [pullEdge, messageEdge 3 0x80#8 60#8 0#8, pullEdge] }
     s.applyLatch = none ∧ s.gain = 0#7 ∧ ∀ j < 3, ∀ t, stateAfter j s = some t → drainsToNoteOn t = false) := by
  refine ⟨⟨0x0600#15, rfl, by decide⟩, rfl, rfl, ?_⟩
  intro j hj t ht
  match j, hj with
  | 0, _ => cases ht; rfl
  | 1, _ => cases ht; rfl
  | 2, _ => cases ht; rfl

/-- FirstSamplesAfterNoteOn. -/
theorem test_witness_first_samples :
    (mk 7 7 0#7 0 [0x1E00#15, 0x62FF#15]).fifo.getLast? = some 0x62FF#15 ∧ cmdIsOn 0x62FF#15 = true ∧
    memReadWT defaultConfig 0 = 0 := by decide

/-- EvictionDoesNotChangeTheOutput, ExactlyOneSamplePerPull, ClockEdgeOrder and the statements about edges: a schedule, and the
least capacities. -/
theorem test_witness_schedule :
    let s : State := { full1 with pending := [⟨false, true, some ⟨3, 0x90#8, 69#8, 127#8⟩⟩, pullEdge, resetEdge, ⟨false, false, none⟩] }
    s.applyLatch = none ∧ 1 ≤ s.cfg.cap ∧ s.fifo.length = s.cfg.cap ∧ commandOf 3 0x90#8 69#8 127#8 = some 0x62FF#15 ∧
    (s.pending = ⟨false, true, some ⟨3, 0x90#8, 69#8, 127#8⟩⟩ :: pullEdge :: [resetEdge, ⟨false, false, none⟩]) ∧
    resetEdge.rst = true ∧ pullEdge.rst = false ∧
    State.reset.fifo = [] ∧ 1 ≤ State.reset.cfg.cap ∧ State.reset.pending = [] ∧ State.reset.applyLatch = none := by decide

/-- ClockEdgeOrder, last clause, with an ignored message: the full channel of capacity 1 ends the edge empty (R155, R231). -/
theorem test_witness_full_edge_ignored :
    let s : State := { full1 with pending := [⟨false, true, some ⟨3, 0xB0#8, 7#8, 100#8⟩⟩] }
    s.applyLatch = none ∧ 1 ≤ s.cfg.cap ∧ s.fifo.length = s.cfg.cap ∧
    s.pending = ⟨false, true, some ⟨3, 0xB0#8, 7#8, 100#8⟩⟩ :: [] ∧ commandOf 3 0xB0#8 7#8 100#8 = none ∧
    ∃ t, step s = .next t ∧ t.fifo = [] := ⟨rfl, by decide, rfl, rfl, by decide, _, rfl, rfl⟩

/-- ResetClearsTheFiveElements, IdleEdgesKeepAllState: an edge with reset, an edge that presents nothing. -/
theorem test_witness_edges :
    ({ sounding with pending := [⟨true, true, none⟩] } : State).pending = ⟨true, true, none⟩ :: [] ∧
    ({ sounding with pending := [⟨false, false, none⟩] } : State).pending = ⟨false, false, none⟩ :: [] ∧
    sounding.applyLatch = none ∧ ∃ t, exec .reset sounding = .next t := ⟨rfl, rfl, rfl, _, rfl⟩

/-- InterpolationLiesBetweenNeighbours, PortsShowTheState: the first phase and the last. -/
theorem test_witness_phase :
    0 < modulus defaultConfig.toParams ∧ 4194303 < modulus defaultConfig.toParams ∧ 65536 % 2 ^ defaultConfig.f = 0 ∧
    0 < defaultConfig.n := by decide

/-- SamplesNeverOverflow: bounds of the table, and a sample at the bottom of its range. -/
theorem test_witness_lowest_sample :
    let s := { State.resetOf smallConfig with gain := 127#7 }
    s.cfg.Wf ∧ s.phase < modulus s.cfg.toParams ∧ (∀ x ∈ s.cfg.table, -2 ≤ x ∧ x ≤ 1) ∧
    sampleOf s = -(2 ^ (s.cfg.sw - 1)) := ⟨test_small_config, by decide, by decide, by decide⟩

/-- PhasePeriodicity: a positive increment, and k = 524288 samples after which the phase returns. -/
theorem test_witness_periodicity :
    sounding.fifo = [] ∧ sounding.phase < modulus sounding.cfg.toParams ∧ 0 < sounding.inc ∧ 1 ≤ 524288 ∧
    modulus sounding.cfg.toParams ∣ 524288 * sounding.inc := ⟨rfl, by decide, by decide, by decide, by decide⟩

/-- ConsecutiveSamplesAreContinuous, StepKeepsStatesLegal, ConfigurationNeverChanges, WritersOfEachElement,
ScheduleIsTakenInOrder: legal states that step. -/
theorem test_witness_steps :
    (∃ t u, sounding.Wf ∧ exec .sample sounding = .next t ∧ exec .sample t = .next u) ∧
    (∃ t, step sounding = .next t) ∧ (∃ t, stateAfter 2 sounding = some t) ∧
    (∃ t, exec (.cmdNoteOn 60#7 100#7) sounding = .next t) ∧ (∃ t, exec (.msgNoteOn 0#4 60#7 100#7) full1 = .next t) ∧
    sounding.applyLatch = none ∧ (present (.cmd 0x62FF#15) sounding).applyLatch ≠ none ∧
    (∃ t, step (present (.cmd 0x62FF#15) sounding) = .next t) :=
  ⟨⟨_, _, test_witness_sounding_wf, rfl, rfl⟩, ⟨_, rfl⟩, ⟨_, rfl⟩, ⟨_, rfl⟩, ⟨_, rfl⟩, rfl, by decide, ⟨_, rfl⟩⟩

/-- SampleIsNearTheReference: the default table with the values it quantizes. -/
theorem test_witness_quantizes :
    ∃ x : Nat → ℝ, defaultConfig.Wf ∧ sounding.phase < modulus defaultConfig.toParams ∧ Quantizes defaultConfig x :=
  ⟨_, test_default_config, by decide, quantizes_own_entries defaultConfig rfl⟩

/-- SampleIsNearTheReference, NoteRomRoundsTheReference, DerivedConstants, OutputFrequencyIsNearTheNote: legal parameters, the
smallest ones too, and a ROM that does not fit INC. -/
theorem test_witness_params :
    defaultParams.Ok ∧ smallParams.Ok ∧ 127 < 128 ∧
    (let p : Params := { smallParams with iw := 1 }; 2 ^ p.iw ≤ ntEntry p 127) := by
  refine ⟨by decide, by decide, by decide, by decide +kernel⟩

/-- NoteRomRoundsTheReference, last implication: at FS = 1 every reference increment is far above the threshold. -/
theorem test_witness_rising_rom :
    let p : Params := { defaultParams with fs := 1 }
    p.Ok ∧ ∀ note < 128, 1 / ((2 : ℝ) ^ ((1 : ℝ) / 12) - 1) < incRef p note * 2 ^ p.f := by
  refine ⟨by decide, fun note _ => ?_⟩
  have h12 : (1 : ℝ) + 1 / 24 ≤ (2 : ℝ) ^ ((1 : ℝ) / 12) := by
    refine le_of_pow_le_pow_left₀ (n := 12) (by norm_num) (by positivity) ?_
    rw [← Real.rpow_natCast ((2 : ℝ) ^ ((1 : ℝ) / 12)) 12, ← Real.rpow_mul (by norm_num)]
    norm_num
  have h6 : (1 : ℝ) / 64 ≤ (2 : ℝ) ^ (((note : ℝ) - 69) / 12) := by
    have e : (1 : ℝ) / 64 = (2 : ℝ) ^ (-6 : ℝ) := by
      rw [Real.rpow_neg (by norm_num), show (6 : ℝ) = ((6 : ℕ) : ℝ) by norm_num, Real.rpow_natCast]
      norm_num
    rw [e]
    refine Real.rpow_le_rpow_of_exponent_le (by norm_num) ?_
    have : (0 : ℝ) ≤ (note : ℝ) := Nat.cast_nonneg note
    linarith
  have hlt : 1 / ((2 : ℝ) ^ ((1 : ℝ) / 12) - 1) ≤ 24 := by
    rw [div_le_iff₀ (by linarith)]
    linarith
  have hbig : (24 : ℝ) < 440 * (2 : ℝ) ^ (((note : ℝ) - 69) / 12) * 64 / 1 * 2 ^ 16 := by
    rw [div_one]
    nlinarith
  refine lt_of_le_of_lt hlt ?_
  simpa [incRef, noteFrequency, defaultParams] using hbig

/-- ArithmeticPrimitives. -/
theorem test_witness_divisor : 0 < 1 ∧ 0 < 127 := by decide

/-- ValueAtIsPeriodic, ResetStatesAreLegal: a legal configuration of the least length. -/
theorem test_witness_config : smallConfig.Wf ∧ smallConfig.n = 2 := ⟨test_small_config, rfl⟩

/-- SineTableLandmarks: the table of the sine with N = 4, SF = 1 and SW = 3. -/
theorem test_witness_sine :
    let c : Config := { defaultConfig with n := 4, sf := 1, sw := 3, table := [0, 2, 0, -2] }
    2 ≤ c.n ∧ 4 ∣ c.n ∧ c.sf + 2 ≤ c.sw ∧ Quantizes c (sineValue c.n) := by
  refine ⟨by decide, by decide, by decide, rfl, fun i hi => ?_⟩
  have round (k : ℤ) (x : ℝ) (h : x = k) : k = roundHalfAwayReal x := by rw [h, roundHalfAwayReal_intCast]
  match i, hi with
  | 0, _ => exact round 0 _ (by simp [sineValue])
  | 1, _ =>
    refine round 2 _ ?_
    simp only [sineValue]
    rw [show 2 * Real.pi * ((1 : ℕ) : ℝ) / ((4 : ℕ) : ℝ) = Real.pi / 2 by push_cast; ring, Real.sin_pi_div_two]
    norm_num
  | 2, _ =>
    refine round 0 _ ?_
    simp only [sineValue]
    rw [show 2 * Real.pi * ((2 : ℕ) : ℝ) / ((4 : ℕ) : ℝ) = Real.pi by push_cast; ring, Real.sin_pi]
    norm_num
  | 3, _ =>
    refine round (-2) _ ?_
    simp only [sineValue]
    rw [show 2 * Real.pi * ((3 : ℕ) : ℝ) / ((4 : ℕ) : ℝ) = Real.pi + Real.pi / 2 by push_cast; ring, Real.sin_add,
      Real.sin_pi, Real.cos_pi, Real.sin_pi_div_two, Real.cos_pi_div_two]
    norm_num

/-- The configuration of the rounded sine for given parameters. -/
noncomputable def sineConfig (p : Params) : Config :=
  { toParams := p, table := (List.range p.n).map (fun i => roundHalfAwayReal (sineValue p.n i * 2 ^ p.sf)), nt := [] }

theorem test_sine_config (p : Params) : Quantizes (sineConfig p) (sineValue p.n) :=
  quantizes_rounded { toParams := p, table := [], nt := [] } (sineValue p.n)

/-- SineTableWithoutAPeakEntry: the shortest table with N² < 2^SF, and the tables of N = 6, 2 and 10001 at SF = 22. -/
theorem test_witness_no_peak :
    (let p : Params := { defaultParams with n := 2, sf := 3 }
     2 ≤ p.n ∧ ¬ 4 ∣ p.n ∧ p.n ^ 2 < 2 ^ p.sf ∧ Quantizes (sineConfig p) (sineValue p.n)) ∧
    (let p : Params := { defaultParams with n := 6 }
     p.n = 6 ∧ p.sf = 22 ∧ Quantizes (sineConfig p) (sineValue 6)) ∧
    (let p : Params := { defaultParams with n := 2 }
     p.n = 2 ∧ Quantizes (sineConfig p) (sineValue 2)) ∧
    (let p : Params := { defaultParams with n := 10001 }
     p.n = 10001 ∧ p.sf = 22 ∧ Quantizes (sineConfig p) (sineValue 10001)) :=
  ⟨⟨by decide, by decide, by decide, test_sine_config _⟩, ⟨rfl, rfl, test_sine_config _⟩, ⟨rfl, test_sine_config _⟩,
    ⟨rfl, rfl, test_sine_config _⟩⟩

/-- FullScaleSinePeakIsRefused: N = 4, SW = 2, SF = 1, the table given directly. -/
theorem test_witness_full_scale :
    let p : Params := { defaultParams with n := 4, sw := 2, sf := 1 }
    p.Ok ∧ 4 ∣ p.n ∧ p.sf = p.sw - 1 ∧ Quantizes (sineConfig p) (sineValue p.n) ∧
      sourceIsOk (.given (sineConfig p).table) = true ∧
      buildTable p (.given (sineConfig p).table) = (sineConfig p).table :=
  ⟨by decide, by decide, rfl, test_sine_config _, rfl, rfl⟩

/-- ConstructionAcceptsExactlyLegalConfigurations: parameters below the least length, and reference values that are numbers. -/
theorem test_witness_construction :
    ({ defaultParams with n := 1 } : Params).n < 2 ∧ ∀ x ∈ ([(0, 1), (-1, 3)] : List (Int × Nat)), 0 < x.2 := by decide

/-- GeneratedTablesAreQuantized: a reference value in range, and one whose rounding at SF = 22 leaves the 24-bit range. -/
theorem test_witness_reference_values :
    0 < ((1, 3) : Int × Nat).2 ∧ [((1, 3) : Int × Nat)][0]? = some (1, 3) ∧ ((2, 1) : Int × Nat) ∈ [((2, 1) : Int × Nat)] ∧
    ¬ SampleInRange defaultParams.sw (roundHalfAwayReal (((2 : Int) : ℝ) / ((1 : Nat) : ℝ) * 2 ^ defaultParams.sf)) := by
  refine ⟨by decide, rfl, by decide, ?_⟩
  have e : roundHalfAwayReal (((2 : Int) : ℝ) / ((1 : Nat) : ℝ) * 2 ^ defaultParams.sf) = 8388608 := by
    have := roundHalfAwayReal_intCast 8388608
    rw [← this]
    congr 1
    norm_num [defaultParams]
  rw [e]
  decide

/-- MapperProducesTheLegalWords: a message of each kind with its word. -/
theorem test_witness_words :
    commandOf 3 0x9F#8 0x7F#8 0x01#8 = some 0x7F81#15 ∧ cmdIsOn 0x7F81#15 = true ∧
    commandOf 3 0x90#8 0x7F#8 0x00#8 = some 0x3F80#15 ∧ cmdIsOn 0x3F80#15 = false := by decide

/-- StepRunsTheDecodedInstruction. -/
theorem test_witness_decoded_word : decodeTableWord 24 0x90457F = some (.msgNoteOn 0#4 69#7 127#7) := by decide

end Sys2Proof.Tests
end

section
/-! PROOFS. The integer primitives over the reals (00_scope.md R13), the derived constants (R10) and construction
(70_reset_and_hazards.md R223), with the obligations ArithmeticPrimitives, DerivedConstants and
ConstructionAcceptsExactlyLegalConfigurations. -/

namespace Sys2Proof.Machine

open Sys2Proof.Reference

/-! ### The integer primitives over the reals -/

/-- Division in the model is the floor of the real quotient, also for the divisor 0, where both are 0. -/
theorem floorDiv_eq_floor (a : Int) (b : Nat) : floorDiv a b = ⌊(a : ℝ) / (b : ℝ)⌋ := by
  rw [Int.floor_div_natCast, Int.floor_intCast, floorDiv]

/-- The Euclidean remainder is what the floor division leaves. -/
theorem floorMod_eq_sub (a : Int) (b : Nat) (hb : 0 < b) : (floorMod a b : Int) = a - b * floorDiv a b := by
  rw [(floorMod_spec a b hb).2, Int.emod_def, floorDiv]

theorem roundHalfUp_eq_floor (a : Int) (b : Nat) (hb : 0 < b) : roundHalfUp a b = ⌊(a : ℝ) / (b : ℝ) + 1 / 2⌋ := by
  have quotient : ((2 * a + (b : Int) : Int) : ℝ) / ((2 * b : Nat) : ℝ) = (a : ℝ) / (b : ℝ) + 1 / 2 := by
    push_cast
    field_simp
  rw [roundHalfUp, floorDiv_eq_floor, quotient]

/-- Rounding away from zero rounds the magnitude half up and puts the sign back. -/
theorem roundHalfAway_eq_sign_mul (a : Int) (b : Nat) : roundHalfAway a b = a.sign * roundHalfUp a.natAbs b := rfl

theorem roundHalfAway_eq_real (a : Int) (b : Nat) (hb : 0 < b) :
    roundHalfAway a b = roundHalfAwayReal ((a : ℝ) / (b : ℝ)) := by
  have hb' : (0 : ℝ) < b := by exact_mod_cast hb
  rw [roundHalfAway_eq_sign_mul]
  rcases lt_trichotomy a 0 with ha | rfl | ha
  · have neg : ¬ 0 ≤ (a : ℝ) / (b : ℝ) := not_le.mpr (div_neg_of_neg_of_pos (by exact_mod_cast ha) hb')
    rw [Int.sign_eq_neg_one_of_neg ha, Int.ofNat_natAbs_of_nonpos ha.le, roundHalfUp_eq_floor _ _ hb, roundHalfAwayReal,
      if_neg neg, Int.cast_neg, neg_div, neg_one_mul]
  · simpa using (roundHalfAwayReal_intCast 0).symm
  · have nonneg : 0 ≤ (a : ℝ) / (b : ℝ) := div_nonneg (by exact_mod_cast ha.le) hb'.le
    rw [Int.sign_eq_one_of_pos ha, Int.natAbs_of_nonneg ha.le, roundHalfUp_eq_floor _ _ hb, one_mul,
      roundHalfAwayReal_of_nonneg nonneg]

theorem shiftRightFloor_eq_floor (a : Int) (k : Nat) : shiftRightFloor a k = ⌊(a : ℝ) / 2 ^ k⌋ := by
  rw [shiftRightFloor, floorDiv_eq_floor, Nat.cast_pow, Nat.cast_ofNat]

/-- The truncated quotient is the quotient of the magnitudes with the product of the signs. -/
theorem tdiv_eq_sign_mul (a b : Int) : tdiv a b = a.sign * b.sign * ((a.natAbs / b.natAbs : Nat) : Int) := by
  rw [tdiv, ← Int.sign_mul_natAbs (a.tdiv b), Int.natAbs_tdiv, Int.sign_tdiv]
  split
  · next small => rw [Nat.div_eq_of_lt small, Int.natCast_zero, zero_mul, mul_zero]
  · rfl

/-! ### The derived constants -/

/-- Every phase fits its register: M ≤ 2^PW (00_scope.md R10). -/
theorem modulus_le_two_pow_phaseWidth (p : Params) (h : 2 ≤ p.n) : modulus p ≤ 2 ^ phaseWidth p := by
  rw [modulus, phaseWidth, pow_add]
  exact Nat.mul_le_mul_right _ (ceilLog2_spec p.n h).1

/-! ### Construction -/

/-- One check of a chain finds nothing exactly when its condition fails and the rest of the chain finds nothing. -/
theorem check_eq_none_iff (fails : Prop) [Decidable fails] (e : ConfigError) (rest : Option ConfigError) :
    (if fails then some e else rest) = none ↔ ¬ fails ∧ rest = none := by
  by_cases h : fails
  · simp [h]
  · simp [h]

/-- The checks on the parameters find nothing exactly when every constraint of 00_scope.md R9 holds. -/
theorem paramsProblem_eq_none_iff (p : Params) : paramsProblem p = none ↔ p.Ok := by
  simp only [paramsProblem, check_eq_none_iff, not_or, not_lt, and_assoc, and_true]

theorem paramsProblem_of_short (p : Params) (h : p.n < 2) : paramsProblem p = some .tableTooShort := if_pos h

theorem tableProblem_eq_none_iff (p : Params) (table : List Int) :
    tableProblem p table = none ↔ table.length = p.n ∧ ∀ x ∈ table, SampleInRange p.sw x := by
  simp only [tableProblem, check_eq_none_iff, not_exists, not_and, Classical.not_imp, not_not, and_true]

theorem ntProblem_eq_none_iff (p : Params) (nt : List Nat) : ntProblem p nt = none ↔ ∀ x ∈ nt, x < 2 ^ p.iw := by
  simp only [ntProblem, check_eq_none_iff, not_exists, not_and, not_le, and_true]

theorem sourceIsOk_generated_iff (values : List (Int × Nat)) :
    sourceIsOk (.generated values) = true ↔ ∀ x ∈ values, 0 < x.2 := by
  simp [sourceIsOk]

/-- The configuration that parameters and a table source stand for (70_reset_and_hazards.md R223, steps 2 to 4). -/
def configOf (p : Params) (src : TableSource) : Config :=
  { toParams := p, table := buildTable p src, nt := ntRom p }

/-- A configuration with the ROM of its parameters is legal exactly when no check of R223 finds a problem. -/
theorem configOf_wf_iff (p : Params) (src : TableSource) :
    (configOf p src).Wf ↔
      paramsProblem p = none ∧ tableProblem p (buildTable p src) = none ∧ ntProblem p (ntRom p) = none := by
  rw [paramsProblem_eq_none_iff, tableProblem_eq_none_iff, ntProblem_eq_none_iff]
  simp only [configOf, Config.Wf, true_and, and_assoc]

/-- What construction answers: the reset state of a legal configuration with a readable source, and nothing else. -/
theorem construct_eq_ok_iff (p : Params) (src : TableSource) (s : State) :
    construct p src = .ok s ↔ sourceIsOk src = true ∧ s = State.resetOf (configOf p src) ∧ s.cfg.Wf := by
  have legal : s = State.resetOf (configOf p src) ∧ s.cfg.Wf ↔
      (configOf p src).Wf ∧ State.resetOf (configOf p src) = s := by
    constructor
    · rintro ⟨rfl, wf⟩
      exact ⟨wf, rfl⟩
    · rintro ⟨wf, rfl⟩
      exact ⟨rfl, wf⟩
  rw [legal, configOf_wf_iff]
  unfold construct
  rcases paramsProblem p with _ | e
  · rcases sourceIsOk src with _ | _
    · simp
    · rcases tableProblem p (buildTable p src) with _ | e
      · rcases ntProblem p (ntRom p) with _ | e
        · simp [configOf]
        · simp
      · simp
  · simp

theorem construct_given_eq_ok_iff (p : Params) (table : List Int) (s : State) :
    construct p (.given table) = .ok s ↔
      s = State.resetOf { toParams := p, table := table, nt := ntRom p } ∧ s.cfg.Wf :=
  (construct_eq_ok_iff p (.given table) s).trans (and_iff_right rfl)

theorem construct_generated_eq_ok_iff (p : Params) (values : List (Int × Nat)) (s : State) :
    construct p (.generated values) = .ok s ↔
      (∀ x ∈ values, 0 < x.2) ∧
        s = State.resetOf { toParams := p, table := values.map (quantize p.sf), nt := ntRom p } ∧ s.cfg.Wf :=
  (construct_eq_ok_iff p (.generated values) s).trans (and_congr_left' (sourceIsOk_generated_iff values))

/-- The first check decides before the table source is looked at (40_wavetable.md R113). -/
theorem construct_of_short (p : Params) (src : TableSource) (h : p.n < 2) :
    construct p src = .error .tableTooShort := by
  rw [construct, paramsProblem_of_short p h]

/-- The default configuration is legal, and its ROM is the computed one (41_oscillator.md R123). -/
theorem construct_default : construct defaultParams (.given defaultTable) = .ok State.reset := by
  rw [construct_given_eq_ok_iff, ← Tests.test_default_rom]
  exact ⟨rfl, Tests.test_default_config⟩

/-! ### The obligations -/

/-- Settles O33: each primitive by its own lemma. -/
theorem arithmeticPrimitives : Obligations.ArithmeticPrimitives :=
  ⟨fun a b hb => ⟨floorDiv_eq_floor a b, floorMod_eq_sub a b hb, (floorMod_spec a b hb).1, roundHalfUp_eq_floor a b hb,
      roundHalfAway_eq_real a b hb⟩,
    shiftRightFloor_eq_floor, tdiv_eq_sign_mul⟩

/-- Settles O34: A and CW are least widths by `ceilLog2_spec`, and N ≤ 2^A gives M ≤ 2^PW. -/
theorem derivedConstants : Obligations.DerivedConstants := by
  refine ⟨fun p ok => ?_, by decide, by decide, by decide, by decide⟩
  obtain ⟨hn, -, -, hcap, -⟩ := ok
  obtain ⟨n_le, lt_n⟩ := ceilLog2_spec p.n hn
  obtain ⟨cap_le, lt_cap⟩ := ceilLog2_spec (p.cap + 1) (by omega)
  exact ⟨n_le, lt_n, rfl, rfl, cap_le, lt_cap, modulus_le_two_pow_phaseWidth p hn⟩

/-- Settles O40: construction succeeds exactly where no check finds a problem. -/
theorem constructionAcceptsExactlyLegalConfigurations :
    Obligations.ConstructionAcceptsExactlyLegalConfigurations :=
  ⟨construct_given_eq_ok_iff, construct_generated_eq_ok_iff, construct_of_short, construct_default⟩

end Sys2Proof.Machine
end

section
/-! PROOFS. The legal states of 10_state.md and the frame of every operation, with the obligations StepKeepsStatesLegal,
WritersOfEachElement, PortsShowTheState and ResetStatesAreLegal. -/

namespace Sys2Proof.Machine

/-! ### The sample stays in the range of the table -/

/-- A difference weighted by a fraction below 1 and floored lies between 0 and the difference (41_oscillator.md R129). -/
theorem floorDiv_mul_between (d : Int) (weight whole : Nat) (h : weight < whole) :
    min d 0 ≤ floorDiv (d * weight) whole ∧ floorDiv (d * weight) whole ≤ max d 0 := by
  have hw : (0 : Int) ≤ weight := Int.natCast_nonneg weight
  have hwhole : (0 : Int) < whole := by exact_mod_cast Nat.zero_lt_of_lt h
  have hle : (weight : Int) ≤ whole := by exact_mod_cast h.le
  unfold floorDiv
  rcases le_total 0 d with hd | hd
  · rw [min_eq_right hd, max_eq_left hd]
    exact ⟨Int.ediv_nonneg (mul_nonneg hd hw) hwhole.le,
      Int.ediv_le_of_le_mul hwhole (mul_le_mul_of_nonneg_left hle hd)⟩
  · rw [min_eq_left hd, max_eq_right hd]
    exact ⟨Int.le_ediv_of_mul_le hwhole (mul_le_mul_of_nonpos_left hle hd),
      Int.ediv_le_of_le_mul hwhole (by simpa using mul_nonpos_of_nonpos_of_nonneg hd hw)⟩

/-- The interpolation lies between its two table reads (41_oscillator.md R129), at every phase and configuration. -/
theorem lerp_between (c : Config) (p : Nat) :
    min (memReadWT c (phaseIndex c p)) (memReadWT c ((phaseIndex c p + 1) % c.n)) ≤ lerp c p ∧
      lerp c p ≤ max (memReadWT c (phaseIndex c p)) (memReadWT c ((phaseIndex c p + 1) % c.n)) := by
  have between := floorDiv_mul_between
    (memReadWT c ((phaseIndex c p + 1) % c.n) - memReadWT c (phaseIndex c p)) (phaseFraction c p) (2 ^ c.f)
    (Nat.mod_lt p (by positivity))
  unfold lerp shiftRightFloor
  omega

/-- Bounds of the table are bounds of the interpolation (41_oscillator.md R132). -/
theorem lerp_mem_bounds (c : Config) (p : Nat) (hlen : c.table.length = c.n) (hp : p < modulus c.toParams) {lo hi : Int}
    (h : ∀ x ∈ c.table, lo ≤ x ∧ x ≤ hi) : lo ≤ lerp c p ∧ lerp c p ≤ hi := by
  have index_lt : phaseIndex c p < c.n := phaseIndex_lt c p hp
  have next_lt : (phaseIndex c p + 1) % c.n < c.n := Nat.mod_lt _ (by omega)
  obtain ⟨lo_y0, y0_hi⟩ := h _ (memReadWT_mem c _ (index_lt.trans_eq hlen.symm))
  obtain ⟨lo_y1, y1_hi⟩ := h _ (memReadWT_mem c _ (next_lt.trans_eq hlen.symm))
  obtain ⟨above, below⟩ := lerp_between c p
  exact ⟨(le_min lo_y0 lo_y1).trans above, below.trans (max_le y0_hi y1_hi)⟩

/-- The gain moves a level toward 0 and never past it (41_oscillator.md R130). -/
theorem applyGain_between (l : Int) (g : Data7) : min l 0 ≤ applyGain l g ∧ applyGain l g ≤ max l 0 := by
  have hg : (0 : Int) ≤ g.toNat := Int.natCast_nonneg _
  have shrinks := abs_applyGain_le l g
  have truncates : |127 * applyGain l g - l * g.toNat| < 127 := tdiv_127_bounds (l * g.toNat)
  obtain ⟨lower, upper⟩ := abs_lt.mp truncates
  rcases le_total 0 l with hl | hl
  · have product : 0 ≤ l * g.toNat := mul_nonneg hl hg
    have nonneg : 0 ≤ applyGain l g := by omega
    rw [abs_of_nonneg nonneg, abs_of_nonneg hl] at shrinks
    omega
  · have product : l * g.toNat ≤ 0 := mul_nonpos_of_nonpos_of_nonneg hl hg
    have nonpos : applyGain l g ≤ 0 := by omega
    rw [abs_of_nonpos nonpos, abs_of_nonpos hl] at shrinks
    omega

/-- 0 is a sample of every width. -/
theorem sampleInRange_zero (sw : Nat) : SampleInRange sw 0 := by
  have : (0 : Int) < 2 ^ (sw - 1) := by positivity
  constructor <;> omega

theorem applyGain_sampleInRange {sw : Nat} {l : Int} (h : SampleInRange sw l) (g : Data7) :
    SampleInRange sw (applyGain l g) := by
  obtain ⟨lo, hi⟩ := h
  obtain ⟨lo0, hi0⟩ := sampleInRange_zero sw
  obtain ⟨above, below⟩ := applyGain_between l g
  exact ⟨(le_min lo lo0).trans above, below.trans (max_le hi hi0)⟩

/-- The sample of a legal configuration at a phase below M needs no more than SW bits (41_oscillator.md R132). -/
theorem sampleOf_sampleInRange (s : State) (hc : s.cfg.Wf) (hp : s.phase < modulus s.cfg.toParams) :
    SampleInRange s.cfg.sw (sampleOf s) := by
  obtain ⟨-, hlen, hentry, -, -⟩ := hc
  exact applyGain_sampleInRange (lerp_mem_bounds s.cfg s.phase hlen hp hentry) s.gain

/-! ### Every named operation keeps a legal state legal -/

theorem modulus_pos_of_wf {c : Config} (h : c.Wf) : 0 < modulus c.toParams := by
  obtain ⟨⟨hn, -⟩, -⟩ := h
  exact Nat.mul_pos (by omega) (by positivity)

/-- The reset state of a legal configuration is legal (10_state.md R35). -/
theorem resetOf_wf {c : Config} (h : c.Wf) : (State.resetOf c).Wf :=
  ⟨h, modulus_pos_of_wf h, Nat.two_pow_pos _, Nat.zero_le _, by simp, sampleInRange_zero _⟩

/-- Legality speaks of the configuration and the five elements alone, so a cleared state is as legal as a reset one. -/
theorem clearAll_wf {s : State} (h : s.Wf) : (clearAll s).Wf := resetOf_wf h.1

theorem setSmpValid_wf {s : State} (h : s.Wf) (v : Bool) : (setSmpValid v s).Wf := h

theorem setPending_wf {s : State} (h : s.Wf) (rest : List Edge) : (setPending rest s).Wf := h

theorem clearLatch_wf {s : State} (h : s.Wf) : (clearLatch s).Wf := h

/-- A push of a legal word keeps at most CAP legal words in the channel (42_command_mapper.md R156). -/
theorem push_wf {s : State} (h : s.Wf) {c : Cmd} (legal : cmdLegal c = true) : (push c s).Wf := by
  obtain ⟨hc, hphase, hinc, hlen, hwords, hout⟩ := h
  have ⟨⟨_, _, _, hcap, _⟩, _⟩ := hc
  refine ⟨hc, hphase, hinc, pushWord_length_le _ _ _ hcap hlen, fun x hx => ?_, hout⟩
  rcases mem_pushWord hx with old | rfl
  · exact hwords x old
  · exact legal

theorem drained_wf {s : State} (h : s.Wf) : (drained s).Wf := by
  obtain ⟨hc, hphase, hinc, -, -, hout⟩ := h
  exact ⟨hc, hphase, hinc, Nat.zero_le _, by simp, hout⟩

/-- An apply sets PHASE to 0 and INC to a ROM entry, or keeps both (43_render_loop.md R172, R173). -/
theorem applyWord_wf {s : State} (h : s.Wf) (c : Cmd) : (applyWord s c).Wf := by
  obtain ⟨hc, hphase, hinc, hfifo⟩ := h
  cases on : cmdIsOn c with
  | true =>
    rw [applyWord_on s c on]
    exact ⟨hc, modulus_pos_of_wf hc, memReadNT_lt s.cfg hc _, hfifo⟩
  | false =>
    rw [applyWord_off s c on]
    exact ⟨hc, hphase, hinc, hfifo⟩

theorem applyAll_wf (words : List Cmd) {s : State} (h : s.Wf) : (applyAll words s).Wf := by
  induction words generalizing s with
  | nil => exact h
  | cons c words ih => exact ih (applyWord_wf h c)

/-- NEXT_SAMPLE leaves PHASE below M by the remainder and OUT in range by the table's bounds (41_oscillator.md R128). -/
theorem nextSample_wf {s : State} (h : s.Wf) : (nextSample s).Wf := by
  obtain ⟨hc, hphase, hinc, hlen, hwords, -⟩ := h
  exact ⟨hc, Nat.mod_lt _ (modulus_pos_of_wf hc), hinc, hlen, hwords, sampleOf_sampleInRange s hc hphase⟩

/-! ### What a message does: nothing, or one push -/

/-- The word that a message operation pushes, if it is a recognised one (42_command_mapper.md R152 to R155). -/
def pushedWord : Instr → Option Cmd
  | .msgNoteOn _ note vel => some (noteOnWord note vel)
  | .msgNoteOnV0 _ note => some (noteOffWord note)
  | .msgNoteOff _ note _ => some (noteOffWord note)
  | _ => none

theorem exec_of_pushedWord {i : Instr} {c : Cmd} (h : pushedWord i = some c) (s : State) :
    exec i s = .next (push c s) := by
  cases i <;> cases h <;> rfl

theorem exec_of_ignored {i : Instr} (h : i.ignored = true) (s : State) : exec i s = .next s := by
  cases i <;> cases h <;> rfl

/-- A message operation is an ignored one or pushes a word. -/
theorem ignored_or_pushes_of_priority {i : Instr} (h : i.priority.isSome = true) :
    i.ignored = true ∨ ∃ c, pushedWord i = some c := by
  cases i with
  | msgNoteOn | msgNoteOnV0 | msgNoteOff => exact .inr ⟨_, rfl⟩
  | msgIgnLen | msgIgnNoStatus | msgIgnStatusAB | msgIgnStatusCF | msgIgnDataB1 | msgIgnDataB2 => exact .inl rfl
  | cmdNoteOn | cmdNoteOff | sample | reset => cases h

theorem cmdLegal_noteOnWord (note : Data7) {vel : Data7} (h : vel ≠ 0#7) : cmdLegal (noteOnWord note vel) = true := by
  simp [cmdLegal, noteOnWord, h]

theorem cmdLegal_noteOffWord (note : Data7) : cmdLegal (noteOffWord note) = true := by
  simp [cmdLegal, noteOffWord]

/-- Whatever the message port presents is ignored or pushes a legal word (30_encoding.md R83, R88). -/
theorem decodeMsg_ignored_or_pushes_legal (len : Nat) (b0 b1 b2 : Byte) :
    (decodeMsg len b0 b1 b2).ignored = true ∨
      ∃ c, pushedWord (decodeMsg len b0 b1 b2) = some c ∧ cmdLegal c = true := by
  unfold decodeMsg
  split_ifs with len status ab cf data1 data2 velocity0 on
  iterate 6 exact .inl rfl
  · exact .inr ⟨_, rfl, cmdLegal_noteOffWord _⟩
  · exact .inr ⟨_, rfl, cmdLegal_noteOnWord _ fun zero => velocity0 ⟨on, zero⟩⟩
  · exact .inr ⟨_, rfl, cmdLegal_noteOffWord _⟩

/-! ### What the other operations do -/

/-- A command word alone runs as one pass of the render step's loop (43_render_loop.md R170). -/
theorem exec_decode_cmd (w : Cmd) (s : State) : exec (decode (.cmd w)) s = .next (applyWord s w) := by
  rw [decode, decodeCmd, applyWord]
  split <;> rfl

/-- NEXT_SAMPLE as one record: it writes PHASE and OUT and nothing else (41_oscillator.md R128). -/
theorem nextSample_writes (s : State) :
    nextSample s = { s with phase := advance s.cfg s.phase s.inc, out := sampleOf s } := rfl

/-- The render step as one record: FIFO emptied, and nothing written besides PHASE, INC, GAIN and OUT (10_state.md R34). -/
theorem exec_sample_writes {s t : State} (run : exec .sample s = .next t) :
    t = { s with fifo := [], phase := t.phase, inc := t.inc, gain := t.gain, out := t.out } := by
  cases run
  simp [nextSample_writes]

/-! ### The step keeps legality -/

/-- What an edge presents, or the latch, runs as an operation that keeps a legal state legal. A bare operation need not:
`MSG_NOTE_ON` with velocity 0, which the decoder never answers, pushes an illegal word. -/
theorem exec_decode_wf (p : Presented) {s t : State} (h : s.Wf) (run : exec (decode p) s = .next t) : t.Wf := by
  cases p with
  | msg len b0 b1 b2 =>
    rw [decode] at run
    rcases decodeMsg_ignored_or_pushes_legal len b0 b1 b2 with ignored | ⟨c, pushes, legal⟩
    · rw [exec_of_ignored ignored] at run
      cases run
      exact h
    · rw [exec_of_pushedWord pushes] at run
      cases run
      exact push_wf h legal
  | cmd w =>
    rw [exec_decode_cmd] at run
    cases run
    exact applyWord_wf h w
  | pull =>
    cases run
    exact nextSample_wf (applyAll_wf s.fifo (drained_wf h))
  | rst =>
    cases run
    exact clearAll_wf h

theorem runOps_decode_wf (ps : List Presented) {s t : State} (h : s.Wf) (run : runOps (ps.map decode) s = .next t) :
    t.Wf := by
  induction ps generalizing s with
  | nil =>
    cases run
    exact h
  | cons p ps ih =>
    rw [List.map_cons, runOps] at run
    cases head : exec (decode p) s with
    | next u =>
      rw [head] at run
      exact ih (exec_decode_wf p h head) run
    | fault r =>
      rw [head] at run
      cases run
    | refused r =>
      rw [head] at run
      cases run

/-- An outcome under `mapNext` is a next state exactly where the outcome itself is one. -/
theorem mapNext_eq_next_iff (change : State → State) (r : Result) (t : State) :
    mapNext change r = .next t ↔ ∃ u, r = .next u ∧ change u = t := by
  cases r <;> simp [mapNext]

/-! ### The ports -/

theorem toNat_dbgPhase {s : State} (h : s.Wf) : (dbgPhase s).toNat = s.phase := by
  obtain ⟨⟨⟨hn, -⟩, -⟩, hphase, -⟩ := h
  rw [dbgPhase, BitVec.toNat_ofNat, Nat.mod_eq_of_lt (hphase.trans_le (modulus_le_two_pow_phaseWidth _ hn))]

theorem toNat_dbgInc {s : State} (h : s.Wf) : (dbgInc s).toNat = s.inc := by
  obtain ⟨-, -, hinc, -⟩ := h
  rw [dbgInc, BitVec.toNat_ofNat, Nat.mod_eq_of_lt hinc]

/-- CW bits count up to CAP (00_scope.md R10), so a full channel shows its length. -/
theorem toNat_dbgCount {s : State} (h : s.Wf) : (dbgCount s).toNat = s.fifo.length := by
  obtain ⟨⟨⟨-, -, -, hcap, -⟩, -⟩, -, -, hlen, -⟩ := h
  have fits : s.cfg.cap + 1 ≤ 2 ^ countWidth s.cfg.toParams := (ceilLog2_spec _ (by omega)).1
  rw [dbgCount, BitVec.toNat_ofNat, Nat.mod_eq_of_lt (by omega)]

theorem toInt_smpData {s : State} (h : s.Wf) : (smpData s).toInt = s.out := by
  obtain ⟨⟨⟨-, -, -, -, -, -, -, hsw, -⟩, -⟩, -, -, -, -, lo, hi⟩ := h
  exact BitVec.toInt_ofInt_eq_self (by omega) lo (by omega)

/-! ### The obligations -/

/-- Settles O48: the latched word, the idle edge and the edge of the schedule each keep the invariant, because every
presented operation does. -/
theorem stepKeepsStatesLegal : Obligations.StepKeepsStatesLegal := by
  intro s t h run
  rcases step_cases s with ⟨w, -, latched⟩ | ⟨-, -, idle⟩ | ⟨e, rest, -, -, edge⟩
  · rw [latched, applyLatched, mapNext_eq_next_iff] at run
    obtain ⟨u, run, rfl⟩ := run
    exact setSmpValid_wf (exec_decode_wf _ (clearLatch_wf h) run) _
  · rw [idle] at run
    cases run
    exact setSmpValid_wf h _
  · rw [edge, clockEdge, mapNext_eq_next_iff] at run
    obtain ⟨u, run, rfl⟩ := run
    exact setSmpValid_wf (runOps_decode_wf _ (setPending_wf h rest) run) _

/-- Settles O51: each operation by the equation that says what it leaves. -/
theorem writersOfEachElement : Obligations.WritersOfEachElement := by
  intro i s t run
  refine ⟨fun message => ?_, fun ignored => ?_, ?_, ?_, ?_, ?_⟩
  · rcases ignored_or_pushes_of_priority message with ignored | ⟨c, pushes⟩
    · rw [exec_of_ignored ignored] at run
      cases run
      rfl
    · rw [exec_of_pushedWord pushes] at run
      cases run
      rfl
  · rw [exec_of_ignored ignored] at run
    cases run
    rfl
  · rintro ⟨note, vel, rfl⟩
    cases run
    rfl
  · rintro ⟨note, vel, rfl⟩
    cases run
    rfl
  · rintro rfl
    exact exec_sample_writes run
  · rintro rfl
    cases run
    rfl

/-- Settles O53: every register fits its port in a legal state, and a zero fits a port of any width. -/
theorem portsShowTheState : Obligations.PortsShowTheState := by
  refine ⟨fun s h => ⟨toNat_dbgPhase h, toNat_dbgInc h, rfl, toNat_dbgCount h, toInt_smpData h, rfl⟩, fun c => ?_⟩
  simp [dbgPhase, dbgInc, dbgGain, dbgCount, smpData]

/-- Settles O49: zeros are in every range. -/
theorem resetStatesAreLegal : Obligations.ResetStatesAreLegal :=
  ⟨fun _ => resetOf_wf, resetOf_wf Tests.test_default_config⟩

end Sys2Proof.Machine
end

section
/-! PROOFS. The constants of the instance under operations, steps and runs (20_memory.md R54), with the obligation
ConfigurationNeverChanges. -/

namespace Sys2Proof.Machine

/-! ### Where a sequence of operations and a run of steps answer a next state -/

theorem runOps_cons_eq_next_iff (i : Instr) (rest : List Instr) (s t : State) :
    runOps (i :: rest) s = .next t ↔ ∃ u, exec i s = .next u ∧ runOps rest u = .next t := by
  rw [runOps]
  cases exec i s <;> simp

theorem stateAfter_succ_eq_some_iff (k : Nat) (s t : State) :
    stateAfter (k + 1) s = some t ↔ ∃ u, step s = .next u ∧ stateAfter k u = some t := by
  have core_step : Sys2Proof.core.step s = step s := rfl
  cases head : step s with
  | next u => simp [stateAfter_succ k s u head]
  | fault r => simp [stateAfter, Host.Core.run, core_step, head]
  | refused r => simp [stateAfter, Host.Core.run, core_step, head]

/-! ### The configuration stays -/

/-- The configuration is outside the frame of every operation (10_state.md R34). -/
theorem exec_keeps_cfg {i : Instr} {s t : State} (run : exec i s = .next t) : t.cfg = s.cfg := by
  obtain ⟨message, -, noteOn, noteOff, sample, reset⟩ := writersOfEachElement i s t run
  cases i with
  | msgNoteOn | msgNoteOnV0 | msgNoteOff | msgIgnLen | msgIgnNoStatus | msgIgnStatusAB | msgIgnStatusCF | msgIgnDataB1
  | msgIgnDataB2 => exact (congrArg State.cfg (message rfl) :)
  | cmdNoteOn note vel => exact (congrArg State.cfg (noteOn ⟨note, vel, rfl⟩) :)
  | cmdNoteOff note vel => exact (congrArg State.cfg (noteOff ⟨note, vel, rfl⟩) :)
  | sample => exact (congrArg State.cfg (sample rfl) :)
  | reset => exact (congrArg State.cfg (reset rfl) :)

theorem runOps_keeps_cfg (ops : List Instr) {s t : State} (run : runOps ops s = .next t) : t.cfg = s.cfg := by
  induction ops generalizing s with
  | nil =>
    cases run
    rfl
  | cons i ops ih =>
    obtain ⟨u, head, tail⟩ := (runOps_cons_eq_next_iff i ops s t).mp run
    exact (ih tail).trans (exec_keeps_cfg head)

/-- The latched word, the idle edge and the edge of the schedule run operations, and what surrounds them writes the latch,
the schedule and `smp_valid` alone. -/
theorem step_keeps_cfg {s t : State} (run : step s = .next t) : t.cfg = s.cfg := by
  rcases step_cases s with ⟨w, -, latched⟩ | ⟨-, -, idle⟩ | ⟨e, rest, -, -, edge⟩
  · rw [latched, applyLatched, mapNext_eq_next_iff] at run
    obtain ⟨u, run, rfl⟩ := run
    rw [setSmpValid_cfg, exec_keeps_cfg run, clearLatch_cfg]
  · rw [idle] at run
    cases run
    rfl
  · rw [edge, clockEdge, mapNext_eq_next_iff] at run
    obtain ⟨u, run, rfl⟩ := run
    rw [setSmpValid_cfg, runOps_keeps_cfg _ run, setPending_cfg]

theorem stateAfter_keeps_cfg (k : Nat) {s t : State} (run : stateAfter k s = some t) : t.cfg = s.cfg := by
  induction k generalizing s with
  | zero =>
    cases run
    rfl
  | succ k ih =>
    obtain ⟨u, head, tail⟩ := (stateAfter_succ_eq_some_iff k s t).mp run
    exact (ih tail).trans (step_keeps_cfg head)

/-! ### The obligation -/

/-- Settles O50: the frame of every operation leaves the configuration out, and steps and runs are made of operations. -/
theorem configurationNeverChanges : Obligations.ConfigurationNeverChanges :=
  ⟨fun _ _ _ => exec_keeps_cfg, fun _ _ => step_keeps_cfg, fun k _ _ => stateAfter_keeps_cfg k⟩

end Sys2Proof.Machine
end

section
/-! PROOFS. The decode map and the encoder (30_encoding.md R80 to R88, R93), with the obligations
DecodeOfEncodeIsTheInstruction, EncodeOfDecodeIsThePresentation, DecodeMapByPriorityAndMasks,
MapperProducesTheLegalWords and PseudoOperationsExpand. -/

namespace Sys2Proof.Machine

/-! ### Fields of status and data bytes -/

@[simp] theorem kindOf_statusByte (kind : BitVec 4) (chan : Chan) : kindOf (statusByte kind chan) = kind :=
  kindOf_append kind chan

@[simp] theorem chanOf_statusByte (kind : BitVec 4) (chan : Chan) : chanOf (statusByte kind chan) = chan :=
  chanOf_append kind chan

/-- The status bit is the top bit of the status nibble (R81). -/
theorem highBit_eq_kindOf (b : Byte) : highBit b = (kindOf b).getLsbD 3 := by
  revert b; decide +kernel

theorem highBit_eq_true_iff (b : Byte) : highBit b = true ↔ 128 ≤ b.toNat := by
  rw [highBit_eq, decide_eq_true_iff]

theorem highBit_eq_false_iff (b : Byte) : highBit b = false ↔ b.toNat < 128 := by
  rw [highBit_eq, decide_eq_false_iff_not, not_le]

theorem kindOf_eq_iff (b : Byte) (kind : BitVec 4) : kindOf b = kind ↔ b.toNat / 16 = kind.toNat := by
  rw [← BitVec.toNat_inj, kindOf_toNat]

theorem dataOf_eq_zero_iff {b : Byte} (low : highBit b = false) : dataOf b = 0#7 ↔ b.toNat = 0 := by
  have small := (highBit_eq_false_iff b).mp low
  rw [← BitVec.toNat_inj, dataOf_toNat, Nat.mod_eq_of_lt small]
  rfl

/-- The two kinds of a note message (R84). -/
abbrev IsNoteKind (kind : BitVec 4) : Prop := kind = kindNoteOff ∨ kind = kindNoteOn

/-- A kind of 0xC or more has the status bit and is none of the kinds that other rows name (R83). -/
theorem kind_of_le_kind (kind : BitVec 4) (h : 0xC#4 ≤ kind) :
    kind.getLsbD 3 = true ∧ ¬ (kind = 0xA#4 ∨ kind = 0xB#4) ∧ kind ≠ kindNoteOff ∧ kind ≠ kindNoteOn := by
  revert kind; decide

/-! ### The rows of the decode map -/

/-- The rows of R83, each with its condition on the message and the operation it selects. What the rows above a row
exclude stands in its condition where the condition does not already say it. -/
inductive MessageRow : Nat → Byte → Byte → Byte → Instr → Prop where
  | len {len : Nat} {b0 b1 b2 : Byte} (other : len ≠ 3) : MessageRow len b0 b1 b2 (.msgIgnLen len b0 b1 b2)
  | noStatus {b0 b1 b2 : Byte} (low : highBit b0 = false) : MessageRow 3 b0 b1 b2 (.msgIgnNoStatus b0 b1 b2)
  | statusAB {b0 b1 b2 : Byte} (kind : kindOf b0 = 0xA#4 ∨ kindOf b0 = 0xB#4) :
      MessageRow 3 b0 b1 b2 (.msgIgnStatusAB b0 b1 b2)
  | statusCF {b0 b1 b2 : Byte} (kind : 0xC#4 ≤ kindOf b0) : MessageRow 3 b0 b1 b2 (.msgIgnStatusCF b0 b1 b2)
  | dataB1 {b0 b1 b2 : Byte} (kind : IsNoteKind (kindOf b0)) (high1 : highBit b1 = true) :
      MessageRow 3 b0 b1 b2 (.msgIgnDataB1 b0 b1 b2)
  | dataB2 {b0 b1 b2 : Byte} (kind : IsNoteKind (kindOf b0)) (low1 : highBit b1 = false) (high2 : highBit b2 = true) :
      MessageRow 3 b0 b1 b2 (.msgIgnDataB2 b0 b1 b2)
  | noteOnV0 {b0 b1 b2 : Byte} (kind : kindOf b0 = kindNoteOn) (low1 : highBit b1 = false) (low2 : highBit b2 = false)
      (zero : dataOf b2 = 0#7) : MessageRow 3 b0 b1 b2 (.msgNoteOnV0 (chanOf b0) (dataOf b1))
  | noteOn {b0 b1 b2 : Byte} (kind : kindOf b0 = kindNoteOn) (low1 : highBit b1 = false) (low2 : highBit b2 = false)
      (nonzero : dataOf b2 ≠ 0#7) : MessageRow 3 b0 b1 b2 (.msgNoteOn (chanOf b0) (dataOf b1) (dataOf b2))
  | noteOff {b0 b1 b2 : Byte} (kind : kindOf b0 = kindNoteOff) (low1 : highBit b1 = false) (low2 : highBit b2 = false) :
      MessageRow 3 b0 b1 b2 (.msgNoteOff (chanOf b0) (dataOf b1) (dataOf b2))

/-- The rows cover every message: the map decides by one of them (R83). -/
theorem messageRow_decodeMsg (len : Nat) (b0 b1 b2 : Byte) : MessageRow len b0 b1 b2 (decodeMsg len b0 b1 b2) := by
  by_cases three : len = 3
  · subst three
    unfold decodeMsg
    split_ifs with _ noStatus kindAB other high1 high2 zero on
    · contradiction
    · exact .noStatus noStatus
    · exact .statusAB kindAB
    · rw [not_or] at kindAB
      exact .statusCF (kindOf_of_highBit b0 (by simpa using noStatus) other.1 other.2 kindAB.1 kindAB.2)
    all_goals
      have kind : IsNoteKind (kindOf b0) := by simpa only [not_and_or, not_not] using other
    · exact .dataB1 kind high1
    · exact .dataB2 kind (by simpa using high1) high2
    all_goals
      rw [Bool.not_eq_true] at high1 high2
    · exact .noteOnV0 zero.1 high1 high2 zero.2
    · exact .noteOn on high1 high2 (fun vel => zero ⟨on, vel⟩)
    · exact .noteOff (kind.resolve_right on) high1 high2
  · rw [decodeMsg, if_pos three]
    exact .len three

/-- The rows do not overlap: a message that meets a row's condition decodes to the operation of that row (R83). -/
theorem MessageRow.decodeMsg_eq {len : Nat} {b0 b1 b2 : Byte} {i : Instr} (row : MessageRow len b0 b1 b2 i) :
    decodeMsg len b0 b1 b2 = i := by
  cases row with
  | len other => exact if_pos other
  | noStatus low => simp [decodeMsg, low]
  | statusAB kind =>
    have status : highBit b0 = true := by rcases kind with kind | kind <;> rw [highBit_eq_kindOf, kind] <;> rfl
    simp [decodeMsg, status, kind]
  | statusCF kind =>
    obtain ⟨status, notAB, notOff, notOn⟩ := kind_of_le_kind _ kind
    rw [← highBit_eq_kindOf] at status
    simp [decodeMsg, status, notAB, notOff, notOn]
  | dataB1 kind high1 =>
    rcases kind with kind | kind <;> simp [decodeMsg, highBit_eq_kindOf b0, kind, high1, kindNoteOff, kindNoteOn]
  | dataB2 kind low1 high2 =>
    rcases kind with kind | kind <;> simp [decodeMsg, highBit_eq_kindOf b0, kind, low1, high2, kindNoteOff, kindNoteOn]
  | noteOnV0 kind low1 low2 zero =>
    simp [decodeMsg, highBit_eq_kindOf b0, kind, low1, low2, zero, kindNoteOff, kindNoteOn]
  | noteOn kind low1 low2 nonzero =>
    simp [decodeMsg, highBit_eq_kindOf b0, kind, low1, low2, nonzero, kindNoteOff, kindNoteOn]
  | noteOff kind low1 low2 => simp [decodeMsg, highBit_eq_kindOf b0, kind, low1, low2, kindNoteOff, kindNoteOn]

/-- The row that decides keeps every bit of the message (R83, R85). -/
theorem MessageRow.encode_eq {len : Nat} {b0 b1 b2 : Byte} {i : Instr} (row : MessageRow len b0 b1 b2 i) :
    encode i = .msg len b0 b1 b2 := by
  cases row with
  | len | noStatus | statusAB | statusCF | dataB1 | dataB2 => rfl
  | noteOnV0 kind low1 low2 zero =>
    have byte2 : b2 = 0#8 := by rw [← dataByte_dataOf b2 low2, zero]; rfl
    rw [encode, statusByte_of_kindOf b0 _ kind, dataByte_dataOf b1 low1, byte2]
  | noteOn kind low1 low2 _ =>
    rw [encode, statusByte_of_kindOf b0 _ kind, dataByte_dataOf b1 low1, dataByte_dataOf b2 low2]
  | noteOff kind low1 low2 =>
    rw [encode, statusByte_of_kindOf b0 _ kind, dataByte_dataOf b1 low1, dataByte_dataOf b2 low2]

theorem MessageRow.wf {len : Nat} {b0 b1 b2 : Byte} {i : Instr} (row : MessageRow len b0 b1 b2 i) {lw : Nat}
    (fits : len < 2 ^ lw) : i.wf lw = true := by
  cases row with
  | len other => simp [Instr.wf, other, fits]
  | noStatus low => simp [Instr.wf, low]
  | statusAB kind => simp [Instr.wf, kind]
  | statusCF kind => exact decide_eq_true kind
  | dataB1 kind high1 => simp [Instr.wf, kind, high1]
  | dataB2 kind low1 high2 => simp [Instr.wf, kind, low1, high2]
  | noteOn _ _ _ nonzero => simp [Instr.wf, nonzero]
  | noteOnV0 | noteOff => rfl

/-- The decode map and R151's own text select the same word. -/
theorem MessageRow.commandOf_eq {len : Nat} {b0 b1 b2 : Byte} {i : Instr} (row : MessageRow len b0 b1 b2 i) :
    commandOf len b0 b1 b2 = pushedWord i := by
  cases row with
  | len other => exact if_pos other
  | noStatus low => simp [commandOf, low, pushedWord]
  | statusAB kind => rcases kind with kind | kind <;> simp [commandOf, kind, kindNoteOff, kindNoteOn, pushedWord]
  | statusCF kind =>
    obtain ⟨-, -, notOff, notOn⟩ := kind_of_le_kind _ kind
    simp [commandOf, notOff, notOn, pushedWord]
  | dataB1 _ high1 => simp [commandOf, high1, pushedWord]
  | dataB2 _ _ high2 => simp [commandOf, high2, pushedWord]
  | noteOnV0 kind low1 low2 zero =>
    simp [commandOf, highBit_eq_kindOf b0, kind, low1, low2, zero, kindNoteOn, pushedWord]
  | noteOn kind low1 low2 nonzero =>
    simp [commandOf, highBit_eq_kindOf b0, kind, low1, low2, nonzero, kindNoteOn, pushedWord]
  | noteOff kind low1 low2 =>
    simp [commandOf, highBit_eq_kindOf b0, kind, low1, low2, kindNoteOff, kindNoteOn, pushedWord]

/-- A message of length 3 that is no note message with two data bytes is ignored (R85). -/
theorem MessageRow.ignored_of_not_note {b0 b1 b2 : Byte} {i : Instr} (row : MessageRow 3 b0 b1 b2 i)
    (h : ¬ (IsNoteKind (kindOf b0) ∧ highBit b1 = false ∧ highBit b2 = false)) : i.ignored = true := by
  cases row with
  | len | noStatus | statusAB | statusCF | dataB1 | dataB2 => rfl
  | noteOnV0 kind low1 low2 _ => exact absurd ⟨.inr kind, low1, low2⟩ h
  | noteOn kind low1 low2 _ => exact absurd ⟨.inr kind, low1, low2⟩ h
  | noteOff kind low1 low2 => exact absurd ⟨.inl kind, low1, low2⟩ h

/-! ### Decoding what was encoded, and encoding what was decoded -/

theorem decodeCmd_cmdWord_one (note vel : Data7) : decodeCmd (cmdWord 1#1 note vel) = .cmdNoteOn note vel := by
  simp [decodeCmd]

theorem decodeCmd_cmdWord_zero (note vel : Data7) : decodeCmd (cmdWord 0#1 note vel) = .cmdNoteOff note vel := by
  simp [decodeCmd]

/-- A well-formed operation is the one that its row of the decode map, or its OP bit, selects (R83, R87). -/
theorem decode_encode {lw : Nat} {i : Instr} (h : i.wf lw = true) : decode (encode i) = i := by
  cases i with
  | msgNoteOn chan note vel =>
    have nonzero : vel ≠ 0#7 := by simpa [Instr.wf] using h
    have row := MessageRow.noteOn (kindOf_statusByte kindNoteOn chan) (highBit_dataByte note) (highBit_dataByte vel)
      (by rwa [dataOf_dataByte])
    simp only [chanOf_statusByte, dataOf_dataByte] at row
    exact row.decodeMsg_eq
  | msgNoteOnV0 chan note =>
    have row := MessageRow.noteOnV0 (kindOf_statusByte kindNoteOn chan) (highBit_dataByte note) (highBit_dataByte 0#7)
      (dataOf_dataByte 0#7)
    simp only [chanOf_statusByte, dataOf_dataByte] at row
    exact row.decodeMsg_eq
  | msgNoteOff chan note rel =>
    have row := MessageRow.noteOff (kindOf_statusByte kindNoteOff chan) (highBit_dataByte note) (highBit_dataByte rel)
    simp only [chanOf_statusByte, dataOf_dataByte] at row
    exact row.decodeMsg_eq
  | msgIgnLen len b0 b1 b2 =>
    have other : len ≠ 3 ∧ len < 2 ^ lw := by simpa [Instr.wf] using h
    exact (MessageRow.len other.1).decodeMsg_eq
  | msgIgnNoStatus b0 b1 b2 => exact (MessageRow.noStatus (by simpa [Instr.wf] using h)).decodeMsg_eq
  | msgIgnStatusAB b0 b1 b2 => exact (MessageRow.statusAB (by simpa [Instr.wf] using h)).decodeMsg_eq
  | msgIgnStatusCF b0 b1 b2 => exact (MessageRow.statusCF (by simpa [Instr.wf] using h)).decodeMsg_eq
  | msgIgnDataB1 b0 b1 b2 =>
    obtain ⟨kind, high1⟩ : IsNoteKind (kindOf b0) ∧ highBit b1 = true := by simpa [Instr.wf] using h
    exact (MessageRow.dataB1 kind high1).decodeMsg_eq
  | msgIgnDataB2 b0 b1 b2 =>
    obtain ⟨⟨kind, low1⟩, high2⟩ : (IsNoteKind (kindOf b0) ∧ highBit b1 = false) ∧ highBit b2 = true := by
      simpa [Instr.wf] using h
    exact (MessageRow.dataB2 kind low1 high2).decodeMsg_eq
  | cmdNoteOn note vel => exact decodeCmd_cmdWord_one note vel
  | cmdNoteOff note vel => exact decodeCmd_cmdWord_zero note vel
  | sample => rfl
  | reset => rfl

/-- A length other than 3 has to fit its field, and 3 fits every field of two bits or more (R81). -/
theorem encode_fits {lw : Nat} (hlw : 2 ≤ lw) {i : Instr} (h : i.wf lw = true) : (encode i).fits lw = true := by
  have three : 3 < 2 ^ lw := lt_of_lt_of_le (by decide) (Nat.pow_le_pow_right (by decide) hlw)
  cases i with
  | msgIgnLen len b0 b1 b2 =>
    have other : len ≠ 3 ∧ len < 2 ^ lw := by simpa [Instr.wf] using h
    exact decide_eq_true other.2
  | msgNoteOn | msgNoteOnV0 | msgNoteOff | msgIgnNoStatus | msgIgnStatusAB | msgIgnStatusCF | msgIgnDataB1
  | msgIgnDataB2 => exact decide_eq_true three
  | cmdNoteOn | cmdNoteOff | sample | reset => rfl

theorem format_encode (i : Instr) : (encode i).format = i.format := by
  cases i <;> rfl

/-- A command word is put together again from the fields its row reads (R87). -/
theorem encode_decodeCmd (w : Cmd) : encode (decodeCmd w) = .cmd w := by
  have fields := cmdWord_of_fields w
  cases on : cmdIsOn w <;> simpa [decodeCmd, on, encode] using fields

theorem encode_decode (p : Presented) : encode (decode p) = p := by
  cases p with
  | msg len b0 b1 b2 => exact (messageRow_decodeMsg len b0 b1 b2).encode_eq
  | cmd w => exact encode_decodeCmd w
  | pull => rfl
  | rst => rfl

theorem wf_decode {lw : Nat} {p : Presented} (fits : p.fits lw = true) : (decode p).wf lw = true := by
  cases p with
  | msg len b0 b1 b2 => exact (messageRow_decodeMsg len b0 b1 b2).wf (of_decide_eq_true fits)
  | cmd w =>
    rw [decode, decodeCmd]
    split <;> rfl
  | pull => rfl
  | rst => rfl

/-! ### Masks over the message word -/

/-- Equal message words have equal bytes (R81). -/
theorem messageWord_inj (a0 a1 a2 b0 b1 b2 : Byte) :
    messageWord a0 a1 a2 = messageWord b0 b1 b2 ↔ a0 = b0 ∧ a1 = b1 ∧ a2 = b2 := by
  simp only [← BitVec.toNat_inj, messageWord_toNat]
  omega

/-- A mask over the message word is a mask over each byte. -/
theorem messageWord_and (b0 b1 b2 m0 m1 m2 : Byte) :
    messageWord b0 b1 b2 &&& messageWord m0 m1 m2 = messageWord (b0 &&& m0) (b1 &&& m1) (b2 &&& m2) :=
  BitVec.and_append.trans (congrArg (· ++ (b2 &&& m2)) BitVec.and_append)

theorem and_eq_statusByte_iff (b : Byte) (kind : BitVec 4) : b &&& 0xF0#8 = statusByte kind 0#4 ↔ kindOf b = kind := by
  revert b kind; decide +kernel

theorem and_eq_zero_iff_highBit (b : Byte) : b &&& 0x80#8 = 0#8 ↔ highBit b = false := by
  revert b; decide +kernel

/-- The mask and match pair of a note kind with two data bytes (R83, rows 6 and 7). -/
theorem messageWord_and_eq_note_iff (b0 b1 b2 : Byte) (kind : BitVec 4) :
    messageWord b0 b1 b2 &&& 0xF08080#24 = messageWord (statusByte kind 0#4) 0#8 0#8 ↔
      kindOf b0 = kind ∧ highBit b1 = false ∧ highBit b2 = false := by
  rw [show (0xF08080#24) = messageWord 0xF0#8 0x80#8 0x80#8 from rfl, messageWord_and, messageWord_inj,
    and_eq_statusByte_iff, and_eq_zero_iff_highBit, and_eq_zero_iff_highBit]

/-- The mask and match pair of a note-on with value 0 (R83, row 5). -/
theorem messageWord_and_eq_noteOnV0_iff (b0 b1 b2 : Byte) :
    messageWord b0 b1 b2 &&& 0xF080FF#24 = 0x900000#24 ↔ kindOf b0 = kindNoteOn ∧ highBit b1 = false ∧ b2 = 0#8 := by
  rw [show (0xF080FF#24) = messageWord 0xF0#8 0x80#8 (BitVec.allOnes 8) from rfl,
    show (0x900000#24) = messageWord (statusByte kindNoteOn 0#4) 0#8 0#8 from rfl, messageWord_and, messageWord_inj,
    and_eq_statusByte_iff, and_eq_zero_iff_highBit, BitVec.and_allOnes]

theorem messageWord_and_eq_noteOn_iff (b0 b1 b2 : Byte) :
    messageWord b0 b1 b2 &&& 0xF08080#24 = 0x900000#24 ↔
      kindOf b0 = kindNoteOn ∧ highBit b1 = false ∧ highBit b2 = false :=
  messageWord_and_eq_note_iff b0 b1 b2 kindNoteOn

theorem messageWord_and_eq_noteOff_iff (b0 b1 b2 : Byte) :
    messageWord b0 b1 b2 &&& 0xF08080#24 = 0x800000#24 ↔
      kindOf b0 = kindNoteOff ∧ highBit b1 = false ∧ highBit b2 = false :=
  messageWord_and_eq_note_iff b0 b1 b2 kindNoteOff

/-! ### Priorities of the rows -/

theorem MessageRow.priority_decode {len : Nat} {b0 b1 b2 : Byte} {i : Instr} (row : MessageRow len b0 b1 b2 i) :
    (decode (.msg len b0 b1 b2)).priority = i.priority :=
  congrArg Instr.priority row.decodeMsg_eq

/-- A status byte of neither note kind (R83, row 3). -/
theorem priority_of_other_status {b0 : Byte} (b1 b2 : Byte) (status : highBit b0 = true)
    (notOff : kindOf b0 ≠ kindNoteOff) (notOn : kindOf b0 ≠ kindNoteOn) :
    (decode (.msg 3 b0 b1 b2)).priority = some 3 := by
  by_cases kind : kindOf b0 = 0xA#4 ∨ kindOf b0 = 0xB#4
  · exact (MessageRow.statusAB kind).priority_decode
  · rw [not_or] at kind
    exact (MessageRow.statusCF (kindOf_of_highBit b0 status notOff notOn kind.1 kind.2)).priority_decode

/-- A note message with a byte of 0x80 or more where a data byte stands (R83, row 4). -/
theorem priority_of_high_data {b0 b1 b2 : Byte} (kind : IsNoteKind (kindOf b0))
    (high : highBit b1 = true ∨ highBit b2 = true) : (decode (.msg 3 b0 b1 b2)).priority = some 4 := by
  cases high1 : highBit b1 with
  | true => exact (MessageRow.dataB1 kind high1).priority_decode
  | false => exact (MessageRow.dataB2 kind high1 (high.resolve_left (by simp [high1]))).priority_decode

/-! ### Legal command words -/

theorem cmdLegal_iff (c : Cmd) :
    cmdLegal c = true ↔ (cmdIsOn c = true → cmdVel c ≠ 0#7) ∧ (cmdIsOn c = false → cmdVel c = 0#7) := by
  cases on : cmdIsOn c <;> simp [cmdLegal, on]

/-- A legal word is a NoteOn with a velocity other than 0, or a NoteOff without one (R87, R88). -/
theorem eq_noteWord_of_cmdLegal {c : Cmd} (legal : cmdLegal c = true) :
    (∃ note vel, vel ≠ 0#7 ∧ c = noteOnWord note vel) ∨ ∃ note, c = noteOffWord note := by
  obtain ⟨onVel, offVel⟩ := (cmdLegal_iff c).mp legal
  have fields := cmdWord_of_fields c
  cases on : cmdIsOn c with
  | true =>
    rw [on, if_pos rfl] at fields
    exact .inl ⟨cmdNote c, cmdVel c, onVel on, fields.symm⟩
  | false =>
    rw [on, offVel on, if_neg Bool.false_ne_true] at fields
    exact .inr ⟨cmdNote c, fields.symm⟩

/-- The machine's decode map and R151's own text agree on the word to push. -/
theorem commandOf_eq_pushedWord (len : Nat) (b0 b1 b2 : Byte) :
    commandOf len b0 b1 b2 = pushedWord (decodeMsg len b0 b1 b2) :=
  (messageRow_decodeMsg len b0 b1 b2).commandOf_eq

theorem pushedWord_of_ignored {i : Instr} (h : i.ignored = true) : pushedWord i = none := by
  cases i <;> cases h <;> rfl

/-- The mapper pushes legal words only (R88). -/
theorem cmdLegal_of_commandOf {len : Nat} {b0 b1 b2 : Byte} {c : Cmd} (h : commandOf len b0 b1 b2 = some c) :
    cmdLegal c = true := by
  rw [commandOf_eq_pushedWord] at h
  rcases decodeMsg_ignored_or_pushes_legal len b0 b1 b2 with ignored | ⟨c', pushes, legal⟩
  · rw [pushedWord_of_ignored ignored] at h
    cases h
  · rw [pushes] at h
    cases h
    exact legal

/-- The message that encodes a well-formed operation makes the mapper push the operation's word. -/
theorem commandOf_of_encode {i : Instr} (h : i.wf 2 = true) {len : Nat} {b0 b1 b2 : Byte}
    (presented : encode i = .msg len b0 b1 b2) : commandOf len b0 b1 b2 = pushedWord i := by
  have back := decode_encode h
  rw [presented, decode] at back
  rw [commandOf_eq_pushedWord, back]

/-- The mapper pushes every legal word (R88). -/
theorem exists_commandOf_of_cmdLegal {c : Cmd} (legal : cmdLegal c = true) :
    ∃ b0 b1 b2, commandOf 3 b0 b1 b2 = some c := by
  rcases eq_noteWord_of_cmdLegal legal with ⟨note, vel, nonzero, rfl⟩ | ⟨note, rfl⟩
  · exact ⟨_, _, _, commandOf_of_encode (i := .msgNoteOn 0#4 note vel) (by simp [Instr.wf, nonzero]) rfl⟩
  · exact ⟨_, _, _, commandOf_of_encode (i := .msgNoteOff 0#4 note 0#7) rfl rfl⟩

/-! ### The obligations -/

/-- Settles O1: the message rows do not overlap, and a command word gives its fields back. -/
theorem decodeOfEncodeIsTheInstruction : Obligations.DecodeOfEncodeIsTheInstruction :=
  fun _ i hlw h => ⟨decode_encode h, encode_fits hlw h, format_encode i⟩

/-- Settles O2: the message rows cover every message, and each keeps every bit. -/
theorem encodeOfDecodeIsThePresentation : Obligations.EncodeOfDecodeIsThePresentation :=
  fun p => ⟨encode_decode p, fun _ => wf_decode⟩

/-- Settles O4: the conditions on numbers and on masks are those on the fields, and each row has its priority. -/
theorem decodeMapByPriorityAndMasks : Obligations.DecodeMapByPriorityAndMasks := by
  intro len b0 b1 b2
  have off : b0.toNat / 16 = 8 ↔ kindOf b0 = kindNoteOff := (kindOf_eq_iff b0 kindNoteOff).symm
  have on : b0.toNat / 16 = 9 ↔ kindOf b0 = kindNoteOn := (kindOf_eq_iff b0 kindNoteOn).symm
  simp only [ne_eq, off, on, ← highBit_eq_false_iff, ← highBit_eq_true_iff, messageWord_and_eq_noteOnV0_iff,
    messageWord_and_eq_noteOn_iff, messageWord_and_eq_noteOff_iff]
  refine ⟨fun other => (MessageRow.len other).priority_decode, ?_, ?_, ?_, ?_, ?_, ?_, ?_, ?_, ?_, ?_⟩
  all_goals rintro rfl
  · exact fun low => (MessageRow.noStatus low).priority_decode
  · exact priority_of_other_status b1 b2
  · exact priority_of_high_data
  · intro kind low1 zero
    have low2 : highBit b2 = false := (highBit_eq_false_iff b2).mpr (by omega)
    exact (MessageRow.noteOnV0 kind low1 low2 ((dataOf_eq_zero_iff low2).mpr zero)).priority_decode
  · intro kind low1 positive low2
    exact (MessageRow.noteOn kind low1 low2 (mt (dataOf_eq_zero_iff low2).mp (by omega))).priority_decode
  · exact fun kind low1 low2 => (MessageRow.noteOff kind low1 low2).priority_decode
  · rintro ⟨kind, low1, rfl⟩
    exact (MessageRow.noteOnV0 kind low1 rfl rfl).priority_decode
  · rintro notV0 ⟨kind, low1, low2⟩
    have nonzero : dataOf b2 ≠ 0#7 := fun zero =>
      notV0 ⟨kind, low1, BitVec.eq_of_toNat_eq ((dataOf_eq_zero_iff low2).mp zero)⟩
    exact (MessageRow.noteOn kind low1 low2 nonzero).priority_decode
  · exact fun ⟨kind, low1, low2⟩ => (MessageRow.noteOff kind low1 low2).priority_decode
  · intro notOn notOff
    refine (messageRow_decodeMsg 3 b0 b1 b2).ignored_of_not_note ?_
    rintro ⟨kind | kind, low⟩
    · exact notOff ⟨kind, low⟩
    · exact notOn ⟨kind, low⟩

/-- Settles O7: the mapper's words are the legal ones, and an apply reads OP first. -/
theorem mapperProducesTheLegalWords : Obligations.MapperProducesTheLegalWords := by
  refine ⟨fun c => ⟨exists_commandOf_of_cmdLegal, fun ⟨_, _, _, h⟩ => cmdLegal_of_commandOf h⟩,
    fun len b0 b1 b2 c h => ?_, fun n s => ?_, fun n v s => ?_⟩
  · obtain ⟨onVel, offVel⟩ := (cmdLegal_iff c).mp (cmdLegal_of_commandOf h)
    refine ⟨fun on => ?_, offVel⟩
    have nonzero : (cmdVel c).toNat ≠ 0 := mt (BitVec.eq_of_toNat_eq (y := 0#7)) (onVel on)
    omega
  · rw [exec_decode_cmd, applyWord_on _ _ (by simp [noteOnWord])]
    simp [noteOnWord]
  · rw [exec_decode_cmd, applyWord_off _ _ (by simp)]

/-- Settles O54: the expansions encode well-formed note messages on channel 0. -/
theorem pseudoOperationsExpand : Obligations.PseudoOperationsExpand := by
  refine ⟨fun n v => ⟨rfl, fun nonzero => ?_, ?_⟩, fun n => ⟨rfl, ?_⟩, fun n r => ⟨rfl, ?_⟩⟩
  · exact decode_encode (lw := 2) (i := .msgNoteOn 0#4 n v) (by simp [Instr.wf, nonzero])
  · rintro rfl
    exact decode_encode (lw := 2) (i := .msgNoteOnV0 0#4 n) rfl
  · exact decode_encode (lw := 2) (i := .msgNoteOff 0#4 n 0#7) rfl
  · exact decode_encode (lw := 2) (i := .msgNoteOff 0#4 n r) rfl

end Sys2Proof.Machine
end

section
/-! PROOFS. The numbers of words (30_encoding.md R81, R87, R94), with the obligations CommandWordLayout,
WordsOfTheSpecDecode and TableWordsDecodeBack. -/

namespace Sys2Proof.Machine

/-! ### The bytes of a numbered message -/

theorem byteAt_toNat (k w : Nat) : (byteAt k w).toNat = w / 2 ^ (8 * k) % 256 := by
  rw [byteAt, BitVec.toNat_ofNat, Nat.shiftRight_eq_div_pow]

/-- The three low bytes of a number that has a message word below its bit 24 are the bytes of that word. -/
theorem byteAt_messageWord (top : Nat) (b0 b1 b2 : Byte) :
    byteAt 2 (top * 2 ^ 24 + (messageWord b0 b1 b2).toNat) = b0 ∧
    byteAt 1 (top * 2 ^ 24 + (messageWord b0 b1 b2).toNat) = b1 ∧
    byteAt 0 (top * 2 ^ 24 + (messageWord b0 b1 b2).toNat) = b2 := by
  simp only [← BitVec.toNat_inj, byteAt_toNat, messageWord_toNat]
  omega

/-! ### A number presents what it numbers -/

theorem presentedOfWord_24 {w : Nat} (h : w < 2 ^ 24) :
    presentedOfWord 24 w = .ok (.msg 3 (byteAt 2 w) (byteAt 1 w) (byteAt 0 w)) := if_pos h

theorem presentedOfWord_16 {w : Nat} (h : w < 2 ^ 15) :
    presentedOfWord 16 w = .ok (.cmd (BitVec.ofNat 15 w)) := if_pos h

theorem presentedOfWord_32 {w : Nat} (h : w < 2 ^ 32) :
    presentedOfWord 32 w = .ok (.msg (w >>> 24) (byteAt 2 w) (byteAt 1 w) (byteAt 0 w)) := if_pos h

/-- Numbering loses nothing where a length fits 8 bits (log entry 5). -/
theorem presentedOfWord_wordOfPresented {p : Presented} (fits : p.fits 8 = true) :
    presentedOfWord (wordOfPresented p).1 (wordOfPresented p).2 = .ok p := by
  cases p with
  | msg len b0 b1 b2 =>
    have bound : (messageWord b0 b1 b2).toNat < 2 ^ 24 := (messageWord b0 b1 b2).isLt
    by_cases three : len = 3
    · subst three
      obtain ⟨byte2, byte1, byte0⟩ := byteAt_messageWord 0 b0 b1 b2
      rw [Nat.zero_mul, Nat.zero_add] at byte2 byte1 byte0
      rw [wordOfPresented, if_pos rfl, presentedOfWord_24 bound, byte2, byte1, byte0]
    · obtain ⟨byte2, byte1, byte0⟩ := byteAt_messageWord len b0 b1 b2
      have short : len < 2 ^ 8 := of_decide_eq_true fits
      have length : (len * 2 ^ 24 + (messageWord b0 b1 b2).toNat) >>> 24 = len := by
        rw [Nat.shiftRight_eq_div_pow]
        omega
      rw [wordOfPresented, if_neg three, presentedOfWord_32 (by omega), length, byte2, byte1, byte0]
  | cmd w => rw [wordOfPresented, presentedOfWord_16 w.isLt, BitVec.ofNat_toNat, BitVec.setWidth_eq]
  | pull => rfl
  | rst => rfl

/-- A numbered word decodes exactly where its number presents something. -/
theorem decodeTableWord_eq_some_iff (nbits w : Nat) (i : Instr) :
    decodeTableWord nbits w = some i ↔ ∃ p, presentedOfWord nbits w = .ok p ∧ decode p = i := by
  rw [decodeTableWord, decodeWord]
  cases presentedOfWord nbits w <;> simp

/-! ### The obligations -/

/-- Settles O3: the number presents what `encode` presents, and that decodes back. -/
theorem tableWordsDecodeBack : Obligations.TableWordsDecodeBack := fun i h =>
  (decodeTableWord_eq_some_iff _ _ i).mpr
    ⟨encode i, presentedOfWord_wordOfPresented (encode_fits (by decide) h), decode_encode h⟩

/-- Settles O5: the words are closed numbers, which the decoder evaluates. -/
theorem wordsOfTheSpecDecode : Obligations.WordsOfTheSpecDecode := by
  unfold Obligations.WordsOfTheSpecDecode
  decide

/-- Settles O6: an assembled word has its number and its fields, and every word is assembled from its fields. -/
theorem commandWordLayout : Obligations.CommandWordLayout := by
  refine ⟨fun n v => ⟨?_, ?_, ?_, ?_⟩, fun n => ⟨?_, ?_, ?_, ?_⟩, fun c => ?_⟩
  · exact cmdWord_toNat 1#1 n v
  · exact cmdIsOn_cmdWord 1#1 n v
  · exact cmdNote_cmdWord 1#1 n v
  · exact cmdVel_cmdWord 1#1 n v
  · simp [noteOffWord, cmdWord_toNat]
  · exact cmdIsOn_cmdWord 0#1 n 0#7
  · exact cmdNote_cmdWord 0#1 n 0#7
  · exact cmdVel_cmdWord 0#1 n 0#7
  · conv_lhs => rw [← cmdWord_of_fields c, cmdWord_toNat]
    cases cmdIsOn c <;> rfl

end Sys2Proof.Machine
end

section
/-! PROOFS. The step on what is put before the machine (30_encoding.md R80, 70_reset_and_hazards.md R231), with the
obligation StepRunsTheDecodedInstruction. -/

namespace Sys2Proof.Machine

/-- Every operation answers a next state (60_exceptions.md R190). -/
theorem exec_total (i : Instr) (s : State) : ∃ t, exec i s = .next t := by
  cases i <;> exact ⟨_, rfl⟩

theorem runOps_singleton (i : Instr) (s : State) : runOps [i] s = exec i s := by
  obtain ⟨t, run⟩ := exec_total i s
  rw [run, runOps_one i s t run]

/-- The decoder loses nothing, so only a pull decodes to SAMPLE. -/
theorem decode_eq_sample_iff (p : Presented) : decode p = .sample ↔ p = .pull := by
  refine ⟨fun h => ?_, fun h => by rw [h]; rfl⟩
  rw [← encode_decode p, h]
  rfl

/-- A step from a state that something was put before runs the decoded operation with the latch empty; `smp_valid` says
whether it was a pull (70_reset_and_hazards.md R231). -/
theorem step_present (p : Presented) (s : State) :
    step (present p s) = mapNext (setSmpValid (decide (p = .pull))) (exec (decode p) (clearLatch s)) := by
  cases p with
  | msg len b0 b1 b2 =>
    rw [step_of_edge _ ⟨false, false, some ⟨len, b0, b1, b2⟩⟩ s.pending rfl rfl, clockEdge_message, runOps_singleton]
    rfl
  | cmd w => rw [step_of_latch _ w rfl]; rfl
  | pull => rw [step_of_edge _ pullEdge s.pending rfl rfl]; rfl
  | rst => rw [step_of_edge _ resetEdge s.pending rfl rfl]; rfl

theorem withFetchWord_of_ok {nbits w : Nat} {p : Presented} (h : presentedOfWord nbits w = .ok p) (s : State) :
    s.withFetchWord nbits w = present p s := by
  rw [State.withFetchWord, h]

theorem step_present_runs_decode (s : State) (p : Presented) :
    ∃ t, exec (decode p) { s with applyLatch := none } = .next t ∧
      step (present p s) = .next { t with smpValid := decide (decode p = .sample) } := by
  obtain ⟨t, run⟩ := exec_total (decode p) (clearLatch s)
  refine ⟨t, run, ?_⟩
  simp only [step_present, run, decode_eq_sample_iff]
  rfl

/-! ### The obligation -/

/-- Settles O45: the step runs what was put before it, and a word that decodes puts before it what its number
presents. -/
theorem stepRunsTheDecodedInstruction : Obligations.StepRunsTheDecodedInstruction := by
  refine ⟨step_present_runs_decode, fun s nbits w i h => ?_⟩
  obtain ⟨p, presents, rfl⟩ := (decodeTableWord_eq_some_iff nbits w i).mp h
  rw [withFetchWord_of_ok presents]
  exact step_present_runs_decode s p

end Sys2Proof.Machine
end

section
/-! PROOFS. Reads of the wave table at any integer index, tables built from reference values (40_wavetable.md R110 to R115)
and the symmetries of the default table (R112), with the obligations GeneratedTablesAreQuantized, ValueAtIsPeriodic and
DefaultTableSymmetries. -/

namespace Sys2Proof.Machine

open Sys2Proof.Reference

/-! ### Reads at any integer index -/

/-- `value_at` sees its index modulo N only (40_wavetable.md R115). -/
theorem valueAt_congr {c : Config} {a b : Int} (h : a ≡ b [ZMOD c.n]) : valueAt c a = valueAt c b := by
  rw [valueAt, floorMod, h, valueAt, floorMod]

theorem valueAt_add_length (c : Config) (k : Int) : valueAt c (k + c.n) = valueAt c k :=
  valueAt_congr (Int.add_modEq_right ..)

/-- Every integer index stands for an index of the table. -/
theorem modEq_floorMod (k : Int) {n : Nat} (hn : 0 < n) : k ≡ (floorMod k n : Nat) [ZMOD n] := by
  rw [(floorMod_spec k n hn).2]
  exact (Int.mod_modEq k n).symm

/-- The last entry is the one before index 0 (40_wavetable.md R115). -/
theorem valueAt_neg_one (c : Config) (hn : 0 < c.n) : valueAt c (-1) = memReadWT c (c.n - 1) := by
  rw [← valueAt_add_length, show -1 + (c.n : Int) = (c.n - 1 : Nat) by omega, valueAt_of_lt c _ (by omega)]

theorem table_getElem?_of_lt {c : Config} {i : Nat} (h : i < c.table.length) : c.table[i]? = some (memReadWT c i) := by
  simp [memReadWT, h]

/-! ### Tables built from reference values -/

/-- Quantization of an exact fraction is the rounding of R111 over the reals. -/
theorem quantize_eq_roundHalfAwayReal (sf : Nat) (x : Int × Nat) (hx : 0 < x.2) :
    quantize sf x = roundHalfAwayReal ((x.1 : ℝ) / (x.2 : ℝ) * 2 ^ sf) := by
  rw [quantize, roundHalfAway_eq_real _ _ hx, div_mul_eq_mul_div]
  push_cast
  rfl

/-- A source whose table has an entry outside the signed SW-bit range builds no machine (40_wavetable.md R111). -/
theorem construct_ne_ok_of_entry (p : Params) (src : TableSource) {y : Int} (mem : y ∈ buildTable p src)
    (out : ¬ SampleInRange p.sw y) (s : State) : construct p src ≠ .ok s := by
  intro built
  obtain ⟨-, rfl, wf⟩ := (construct_eq_ok_iff p src s).mp built
  obtain ⟨-, -, inRange, -⟩ := wf
  exact out (inRange y mem)

/-! ### The obligations -/

/-- Settles O35: `quantize` rounds the real reference value, and a table with an entry out of range is not legal. -/
theorem generatedTablesAreQuantized : Obligations.GeneratedTablesAreQuantized := by
  refine ⟨fun p values i x hx get => ?_, fun p values x hx mem out => ?_⟩
  · rw [buildTable, List.getElem?_map, get, Option.map_some, quantize_eq_roundHalfAwayReal _ _ hx]
  · rw [← quantize_eq_roundHalfAwayReal _ _ hx] at out
    cases built : construct p (.generated values) with
    | error e => exact ⟨e, rfl⟩
    | ok s => exact absurd built (construct_ne_ok_of_entry p _ (List.mem_map_of_mem mem) out s)

/-- Settles O36: the index is reduced modulo N by `floorMod`, so an index and its sum with N read the same entry. -/
theorem valueAtIsPeriodic : Obligations.ValueAtIsPeriodic := by
  refine ⟨fun c k wf => ?_, by decide, by decide⟩
  obtain ⟨⟨two_le, -⟩, length_eq, -⟩ := wf
  obtain ⟨index_lt, index_eq⟩ := floorMod_spec k c.n (by omega)
  exact ⟨⟨floorMod k c.n, index_lt, index_eq, table_getElem?_of_lt (by omega)⟩, valueAt_add_length c k,
    valueAt_neg_one c (by omega)⟩

/-- Settles O39: both symmetries hold at the 64 indices of the table, and every integer is congruent to one of them. -/
theorem defaultTableSymmetries : Obligations.DefaultTableSymmetries := by
  have half : ∀ r < 64, valueAt defaultConfig ((r : Nat) + 32) = -valueAt defaultConfig (r : Nat) := by decide
  have mirror : ∀ r < 64, valueAt defaultConfig (16 - (r : Nat)) = valueAt defaultConfig (16 + (r : Nat)) := by decide
  refine ⟨fun i => ?_, fun j => ?_⟩
  · have index := modEq_floorMod i (n := defaultConfig.n) (by decide)
    rw [valueAt_congr (index.add_right 32), valueAt_congr index]
    exact half _ (floorMod_spec i _ (by decide)).1
  · have index := modEq_floorMod j (n := defaultConfig.n) (by decide)
    rw [valueAt_congr (index.sub_left 16), valueAt_congr (index.add_left 16)]
    exact mirror _ (floorMod_spec j _ (by decide)).1

end Sys2Proof.Machine
end

section
/-! PROOFS. Rounding half away from zero over the reals (00_scope.md R13) and the quantized sine at index floor(N/4)
(40_wavetable.md R117), with the obligations SineTableLandmarks, SineTableWithoutAPeakEntry and FullScaleSinePeakIsRefused. -/

namespace Sys2Proof.Reference

open Sys2Proof.Machine

/-! ### Rounding half away from zero -/

theorem abs_sub_roundHalfAwayReal_le (x : ℝ) : |x - roundHalfAwayReal x| ≤ 1 / 2 := by
  unfold roundHalfAwayReal
  split
  · have := Int.floor_le (x + 1 / 2)
    have := Int.lt_floor_add_one (x + 1 / 2)
    rw [abs_le]
    constructor <;> linarith
  · have := Int.floor_le (-x + 1 / 2)
    have := Int.lt_floor_add_one (-x + 1 / 2)
    rw [abs_le]
    push_cast
    constructor <;> linarith

/-- An integer less than 1/2 away is the rounded value. -/
theorem roundHalfAwayReal_eq_of_abs_sub_lt {x : ℝ} {k : ℤ} (h : |x - k| < 1 / 2) : roundHalfAwayReal x = k := by
  have near : |(roundHalfAwayReal x : ℝ) - k| < 1 := by
    have triangle := abs_sub_le (roundHalfAwayReal x : ℝ) x k
    rw [abs_sub_comm (roundHalfAwayReal x : ℝ) x] at triangle
    linarith [abs_sub_roundHalfAwayReal_le x]
  exact sub_eq_zero.mp (Int.abs_lt_one_iff.mp (by exact_mod_cast near))

@[simp] theorem roundHalfAwayReal_zero : roundHalfAwayReal 0 = 0 := by
  simpa using roundHalfAwayReal_intCast 0

/-! ### The sine at index floor(N/4) -/

@[simp] theorem sineValue_zero (n : Nat) : sineValue n 0 = 0 := by simp [sineValue]

/-- The peak entry of a length that 4 divides (40_wavetable.md R117 (b)). -/
theorem sineValue_quarter_of_dvd {n : Nat} (h : 2 ≤ n) (dvd : 4 ∣ n) : sineValue n (n / 4) = 1 := by
  rw [sineValue_quarter n h, Nat.mod_eq_zero_of_dvd dvd]
  simp

/-- The distance of index floor(N/4) from the peak, in radians, is at most a quarter period. -/
theorem quarter_distance_le (n : Nat) (h : 2 ≤ n) : Real.pi * ((n % 4 : Nat) : ℝ) / (2 * n) ≤ Real.pi / 2 := by
  have hn : (0 : ℝ) < n := by positivity
  have le : ((n % 4 : Nat) : ℝ) ≤ n := by exact_mod_cast Nat.mod_le n 4
  rw [div_le_div_iff₀ (by positivity) two_pos]
  nlinarith [mul_le_mul_of_nonneg_left le Real.pi_pos.le]

theorem sineValue_quarter_nonneg (n : Nat) (h : 2 ≤ n) : 0 ≤ sineValue n (n / 4) := by
  rw [sineValue_quarter n h]
  refine Real.cos_nonneg_of_mem_Icc ⟨?_, quarter_distance_le n h⟩
  exact (neg_nonpos.mpr (by positivity)).trans (by positivity)

/-- Without a peak entry the sine stays below 1 by at least 1 / (2 N²): the distance from the peak is π/(2N) or more. -/
theorem sineValue_quarter_le_of_not_dvd {n : Nat} (h : 2 ≤ n) (ndvd : ¬ 4 ∣ n) :
    sineValue n (n / 4) ≤ 1 - 1 / (2 * (n : ℝ) ^ 2) := by
  have hn : (0 : ℝ) < n := by positivity
  have one_le : (1 : ℝ) ≤ ((n % 4 : Nat) : ℝ) := by exact_mod_cast (by omega : 1 ≤ n % 4)
  have distance_le := quarter_distance_le n h
  have distance_abs : |Real.pi * ((n % 4 : Nat) : ℝ) / (2 * n)| ≤ Real.pi := by
    rw [abs_of_nonneg (by positivity)]
    linarith [Real.pi_pos]
  rw [sineValue_quarter n h]
  calc Real.cos (Real.pi * ((n % 4 : Nat) : ℝ) / (2 * n))
      ≤ 1 - 2 / Real.pi ^ 2 * (Real.pi * ((n % 4 : Nat) : ℝ) / (2 * n)) ^ 2 := Real.cos_le_one_sub_mul_cos_sq distance_abs
    _ = 1 - ((n % 4 : Nat) : ℝ) ^ 2 / (2 * (n : ℝ) ^ 2) := by
        field_simp
    _ ≤ 1 - 1 / (2 * (n : ℝ) ^ 2) := by
        gcongr
        exact one_le_pow₀ one_le

theorem sineValue_quarter_lt_one {n : Nat} (h : 2 ≤ n) (ndvd : ¬ 4 ∣ n) : sineValue n (n / 4) < 1 :=
  (sineValue_quarter_le_of_not_dvd h ndvd).trans_lt (sub_lt_self 1 (by positivity))

/-- Only the index N/4 has the phase π/2, so a length that 4 does not divide has none. -/
theorem phase_ne_peak {n : Nat} (h : 0 < n) (ndvd : ¬ 4 ∣ n) (i : Nat) : 2 * Real.pi * i / n ≠ Real.pi / 2 := by
  intro peak
  have hn : (n : ℝ) ≠ 0 := by positivity
  have four_mul : 4 * (i : ℝ) = n := by
    field_simp at peak
    linarith
  exact ndvd ⟨i, by exact_mod_cast four_mul.symm⟩

theorem sineValue_six_one : sineValue 6 1 = Real.sin (Real.pi / 3) := by
  rw [sineValue]
  congr 1
  push_cast
  ring

theorem sineValue_two_one : sineValue 2 1 = 0 := by
  rw [sineValue, Nat.cast_one, mul_one, Nat.cast_two, mul_div_cancel_left₀ _ two_ne_zero, Real.sin_pi]

/-- sin(π/3) to the eight digits that its entry at SF = 22 needs. -/
theorem sin_pi_div_three_bounds : 0.86602540 < Real.sin (Real.pi / 3) ∧ Real.sin (Real.pi / 3) < 0.86602541 := by
  have lower : (1.7320508 : ℝ) < √3 := Real.lt_sqrt_of_sq_lt (by norm_num)
  have upper : √3 < (1.73205082 : ℝ) := (Real.sqrt_lt' (by norm_num)).mpr (by norm_num)
  rw [Real.sin_pi_div_three]
  constructor <;> linarith

/-! ### The entry at index floor(N/4) of a quantized sine -/

/-- The entry at index N/4 is 1.0 at SF fraction bits (40_wavetable.md R117 (b)). -/
theorem valueAt_quarter_of_dvd {c : Config} (h : 2 ≤ c.n) (dvd : 4 ∣ c.n) (quantized : Quantizes c (sineValue c.n)) :
    valueAt c (c.n / 4 : Nat) = 2 ^ c.sf := by
  rw [valueAt_of_quantizes quantized (by omega), sineValue_quarter_of_dvd h dvd, one_mul]
  exact_mod_cast roundHalfAwayReal_intCast (2 ^ c.sf)

/-- Where the rounding of R111 keeps an entry below full scale (log entry 16). -/
theorem valueAt_quarter_lt_iff {c : Config} (h : 2 ≤ c.n) (quantized : Quantizes c (sineValue c.n)) :
    valueAt c (c.n / 4 : Nat) < 2 ^ c.sf ↔ sineValue c.n (c.n / 4) * 2 ^ c.sf + 1 / 2 < 2 ^ c.sf := by
  have nonneg := sineValue_quarter_nonneg c.n h
  rw [valueAt_of_quantizes quantized (by omega), roundHalfAwayReal_of_nonneg (by positivity), Int.floor_lt]
  push_cast
  rfl

theorem valueAt_quarter_lt_of_sq_lt {c : Config} (h : 2 ≤ c.n) (ndvd : ¬ 4 ∣ c.n)
    (quantized : Quantizes c (sineValue c.n)) (short : c.n ^ 2 < 2 ^ c.sf) : valueAt c (c.n / 4 : Nat) < 2 ^ c.sf := by
  rw [valueAt_quarter_lt_iff h quantized]
  have hn : (0 : ℝ) < c.n := by positivity
  have short' : (c.n : ℝ) ^ 2 < 2 ^ c.sf := by exact_mod_cast short
  have gap : 1 / 2 < 1 / (2 * (c.n : ℝ) ^ 2) * 2 ^ c.sf := by
    rw [one_div_mul_eq_div, div_lt_div_iff₀ two_pos (by positivity)]
    linarith
  have scaled := mul_le_mul_of_nonneg_right (sineValue_quarter_le_of_not_dvd h ndvd) (by positivity : (0 : ℝ) ≤ 2 ^ c.sf)
  linarith

/-! ### The lengths 6, 2 and 10001 -/

theorem valueAt_one_of_length_six {c : Config} (six : c.n = 6) (quantized : Quantizes c (sineValue 6)) :
    valueAt c 1 = roundHalfAwayReal (Real.sin (Real.pi / 3) * 2 ^ c.sf) := by
  rw [← sineValue_six_one]
  exact valueAt_of_quantizes quantized (i := 1) (by omega)

theorem abs_sub_valueAt_one_of_length_six {c : Config} (six : c.n = 6) (quantized : Quantizes c (sineValue 6)) :
    |(valueAt c 1 : ℝ) - 0.866 * 2 ^ c.sf| ≤ 0.0001 * 2 ^ c.sf + 1 / 2 := by
  obtain ⟨lower, upper⟩ := sin_pi_div_three_bounds
  have rounded := abs_le.mp (abs_sub_roundHalfAwayReal_le (Real.sin (Real.pi / 3) * 2 ^ c.sf))
  have scale : (0 : ℝ) < 2 ^ c.sf := by positivity
  rw [valueAt_one_of_length_six six quantized, abs_le]
  constructor
  · nlinarith
  · nlinarith

/-- The entry of 95_test_vectors.md L1-1. -/
theorem roundHalfAwayReal_sin_pi_div_three : roundHalfAwayReal (Real.sin (Real.pi / 3) * 2 ^ 22) = 3632374 := by
  obtain ⟨lower, upper⟩ := sin_pi_div_three_bounds
  refine roundHalfAwayReal_eq_of_abs_sub_lt ?_
  rw [Int.cast_ofNat, abs_lt]
  constructor <;> linarith

theorem table_of_length_two {c : Config} (two : c.n = 2) (quantized : Quantizes c (sineValue 2)) : c.table = [0, 0] := by
  obtain ⟨length_eq, entry⟩ := quantized
  obtain ⟨a, b, table_eq⟩ := List.length_eq_two.mp (length_eq.trans two)
  have first : a = 0 := by simpa [memReadWT, table_eq] using entry 0 (by omega)
  have second : b = 0 := by simpa [memReadWT, table_eq, sineValue_two_one] using entry 1 (by omega)
  rw [table_eq, first, second]

/-- With N = 10001 the sine is so near 1 at index 2500 that its rounding at SF = 22 is full scale (log entry 16). -/
theorem roundHalfAwayReal_sineValue_10001 : roundHalfAwayReal (sineValue 10001 2500 * 2 ^ 22) = 2 ^ 22 := by
  have cosine : sineValue 10001 2500 = Real.cos (Real.pi / 20002) := by
    have quarter := sineValue_quarter 10001 (by norm_num)
    norm_num at quarter
    exact quarter
  have lower : 1 - (Real.pi / 20002) ^ 2 / 2 ≤ sineValue 10001 2500 := cosine ▸ Real.one_sub_sq_div_two_le_cos
  have upper : sineValue 10001 2500 ≤ 1 := Real.sin_le_one _
  have pi_sq : Real.pi ^ 2 < 10 := by nlinarith [Real.pi_lt_d2, Real.pi_pos]
  refine roundHalfAwayReal_eq_of_abs_sub_lt ?_
  rw [abs_lt]
  push_cast
  constructor <;> nlinarith

/-! ### Full scale -/

theorem not_sampleInRange_full_scale {sf sw : Nat} (h : sf = sw - 1) : ¬ SampleInRange sw (2 ^ sf) := by
  rintro ⟨-, upper⟩
  rw [h] at upper
  omega

/-- A peak of at most SW − 2 fraction bits fits (40_wavetable.md R117). -/
theorem sampleInRange_two_pow {sf sw : Nat} (h : sf + 2 ≤ sw) : SampleInRange sw (2 ^ sf) := by
  have pos : (0 : Int) < 2 ^ sf := by positivity
  have double : (2 : Int) ^ sf * 2 ≤ 2 ^ (sw - 1) := by
    rw [← pow_succ]
    exact pow_le_pow_right₀ one_le_two (by omega)
  constructor <;> linarith

/-- Legal parameters, a readable source of the right length and one entry out of range: the table check decides. -/
theorem construct_of_entry_out_of_range {p : Params} (ok : p.Ok) {src : TableSource} (readable : sourceIsOk src = true)
    (length_eq : (buildTable p src).length = p.n) {y : Int} (mem : y ∈ buildTable p src) (out : ¬ SampleInRange p.sw y) :
    construct p src = .error .tableEntry := by
  have problem : tableProblem p (buildTable p src) = some .tableEntry := by
    rw [tableProblem, if_neg (not_not.mpr length_eq), if_pos ⟨y, mem, out⟩]
  rw [construct, (paramsProblem_eq_none_iff p).mpr ok]
  simp only [readable, Bool.true_eq_false, if_false]
  rw [problem]

/-! ### The obligations -/

/-- Settles O37: the sine is 0 at index 0 and 1 at index N/4. -/
theorem sineTableLandmarks : Obligations.SineTableLandmarks := by
  refine fun c h quantized => ⟨?_, fun dvd => valueAt_quarter_of_dvd h dvd quantized, sampleInRange_two_pow⟩
  have entry := valueAt_of_quantizes quantized (i := 0) (by omega)
  simpa using entry

/-- Settles O55: 1 − 1/(2 N²) bounds the sine at index floor(N/4), and rounding it decides the entry there. -/
theorem sineTableWithoutAPeakEntry : Obligations.SineTableWithoutAPeakEntry := by
  refine ⟨fun c h ndvd quantized => ⟨?_, ?_, ?_, ?_⟩, fun c six quantized => ⟨?_, ?_, ?_⟩,
    fun c two quantized => ⟨?_, ?_⟩, fun c length sf quantized => ?_⟩
  · exact fun i _ => phase_ne_peak (by omega) ndvd i
  · exact sineValue_quarter_lt_one h ndvd
  · exact valueAt_quarter_lt_iff h quantized
  · exact valueAt_quarter_lt_of_sq_lt h ndvd quantized
  · exact valueAt_one_of_length_six six quantized
  · exact abs_sub_valueAt_one_of_length_six six quantized
  · intro sf
    rw [valueAt_one_of_length_six six quantized, sf, roundHalfAwayReal_sin_pi_div_three]
  · simpa using valueAt_of_quantizes quantized (i := 0) (by omega)
  · exact table_of_length_two two quantized
  · have entry := valueAt_of_quantizes quantized (i := 2500) (by omega)
    rw [sf, roundHalfAwayReal_sineValue_10001] at entry
    exact entry

/-- Settles O56: the peak 2^SF is one above the largest signed SW-bit value. -/
theorem fullScaleSinePeakIsRefused : Obligations.FullScaleSinePeakIsRefused := by
  intro c ok dvd full quantized
  have two_le : 2 ≤ c.n := ok.1
  have out : ¬ SampleInRange c.sw (valueAt c (c.n / 4 : Nat)) := by
    rw [valueAt_quarter_of_dvd two_le dvd quantized]
    exact not_sampleInRange_full_scale full
  have mem : valueAt c (c.n / 4 : Nat) ∈ c.table := by
    rw [valueAt_of_lt c _ (by omega)]
    exact memReadWT_mem c _ (by rw [quantized.1]; omega)
  refine ⟨out, fun wf => ?_, fun src readable built => ?_⟩
  · obtain ⟨-, -, inRange, -⟩ := wf
    exact out (inRange _ mem)
  · exact construct_of_entry_out_of_range ok readable (built ▸ quantized.1) (built ▸ mem) out

end Sys2Proof.Reference
end

section
/-! PROOFS. The default table against the real sine (40_wavetable.md R112), with the obligation
DefaultTableIsTheQuantizedSine. The sine of 2π·i/64 is the imaginary part of the i-th power of e^(iπ/32), and a Gaussian
integer over 10^11 stands in for that number: its powers are exact, and the i-th is off by at most i times its own error. -/

namespace Sys2Proof.Reference

open Sys2Proof.Machine

/-! ### e^(iπ/32) and its stand-in -/

/-- One step around the circle of the default table: cos(π/32) + i sin(π/32). -/
noncomputable def tableStep : ℂ := Complex.exp ((Real.pi / 32 : ℝ) * Complex.I)

/-- `tableStep` times 10^11, its parts rounded down. -/
def scaledStep : GaussianInt := ⟨99518472667, 9801714032⟩

/-- The rational point that stands in for `tableStep`. -/
noncomputable def approxStep : ℂ := (scaledStep : ℂ) / (10 ^ 11 : ℕ)

theorem approxStep_re : approxStep.re = 99518472667 / 10 ^ 11 := by
  rw [approxStep, Complex.div_natCast_re, ← GaussianInt.intCast_re]
  norm_num [scaledStep]

theorem approxStep_im : approxStep.im = 9801714032 / 10 ^ 11 := by
  rw [approxStep, Complex.div_natCast_im, ← GaussianInt.intCast_im]
  norm_num [scaledStep]

theorem approxStep_pow_im (i : Nat) : (approxStep ^ i).im = ((scaledStep ^ i).im : ℝ) / (10 ^ 11) ^ i := by
  rw [approxStep, div_pow, ← map_pow, ← Nat.cast_pow, Complex.div_natCast_im, GaussianInt.intCast_im, Nat.cast_pow,
    Nat.cast_pow, Nat.cast_ofNat]

theorem sineValue_eq_im_pow (i : Nat) : sineValue 64 i = (tableStep ^ i).im := by
  rw [tableStep, ← Complex.exp_nat_mul, ← mul_assoc, ← Complex.ofReal_natCast, ← Complex.ofReal_mul,
    Complex.exp_ofReal_mul_I_im, sineValue]
  congr 1
  push_cast
  ring

/-! ### How near the stand-in is -/

theorem sqrt_mem_Icc {x lo hi a b : ℝ} (hx : x ∈ Set.Icc lo hi) (hb : 0 ≤ b := by norm_num)
    (hlo : a ^ 2 ≤ lo := by norm_num) (hhi : hi ≤ b ^ 2 := by norm_num) : √x ∈ Set.Icc a b :=
  ⟨Real.le_sqrt_of_sq_le (hlo.trans hx.1), Real.sqrt_le_iff.mpr ⟨hb, hx.2.trans hhi⟩⟩

theorem two_add_mem_Icc {x lo hi : ℝ} (hx : x ∈ Set.Icc lo hi) : 2 + x ∈ Set.Icc (2 + lo) (2 + hi) :=
  ⟨add_le_add_right hx.1 2, add_le_add_right hx.2 2⟩

theorem two_sub_mem_Icc {x lo hi : ℝ} (hx : x ∈ Set.Icc lo hi) : 2 - x ∈ Set.Icc (2 - hi) (2 - lo) :=
  ⟨sub_le_sub_left hx.2 2, sub_le_sub_left hx.1 2⟩

/-- The root inside cos(π/32) and sin(π/32), which is 2 cos(π/16). -/
theorem nested_sqrt_mem_Icc : √(2 + √(2 + √2)) ∈ Set.Icc (1.96157056080645 : ℝ) 1.96157056080648 := by
  have first : √2 ∈ Set.Icc (1.41421356237309 : ℝ) 1.4142135623731 := sqrt_mem_Icc ⟨le_rfl, le_rfl⟩
  have second : √(2 + √2) ∈ Set.Icc (1.84775906502256 : ℝ) 1.84775906502258 := sqrt_mem_Icc (two_add_mem_Icc first)
  exact sqrt_mem_Icc (two_add_mem_Icc second)

theorem approxStep_re_near : |tableStep.re - approxStep.re| ≤ 1 / 10 ^ 11 := by
  obtain ⟨lower, upper⟩ : √(2 + √(2 + √(2 + √2))) ∈ Set.Icc (1.99036945334 : ℝ) 1.99036945335 :=
    sqrt_mem_Icc (two_add_mem_Icc nested_sqrt_mem_Icc)
  rw [tableStep, Complex.exp_ofReal_mul_I_re, Real.cos_pi_div_thirty_two, approxStep_re, abs_le]
  constructor <;> linarith

theorem approxStep_im_near : |tableStep.im - approxStep.im| ≤ 1 / 10 ^ 11 := by
  obtain ⟨lower, upper⟩ : √(2 - √(2 + √(2 + √2))) ∈ Set.Icc (0.19603428064 : ℝ) 0.19603428066 :=
    sqrt_mem_Icc (two_sub_mem_Icc nested_sqrt_mem_Icc)
  rw [tableStep, Complex.exp_ofReal_mul_I_im, Real.sin_pi_div_thirty_two, approxStep_im, abs_le]
  constructor <;> linarith

theorem norm_tableStep_sub_le : ‖tableStep - approxStep‖ ≤ 2 / 10 ^ 11 := by
  have parts := Complex.norm_le_abs_re_add_abs_im (tableStep - approxStep)
  rw [Complex.sub_re, Complex.sub_im] at parts
  linarith [approxStep_re_near, approxStep_im_near]

theorem norm_tableStep : ‖tableStep‖ = 1 := Complex.norm_exp_ofReal_mul_I _

theorem norm_approxStep_le : ‖approxStep‖ ≤ 1 := by
  rw [← sq_le_one_iff₀ (norm_nonneg _), Complex.sq_norm, Complex.normSq_apply, approxStep_re, approxStep_im]
  norm_num

/-- Powers of two points of the unit disk part by at most the exponent times the distance of the points. -/
theorem norm_pow_sub_pow_le {z w : ℂ} (hz : ‖z‖ ≤ 1) (hw : ‖w‖ ≤ 1) (k : Nat) : ‖z ^ k - w ^ k‖ ≤ k * ‖z - w‖ := by
  induction k with
  | zero => simp
  | succ k ih =>
    calc ‖z ^ (k + 1) - w ^ (k + 1)‖ = ‖z ^ k * (z - w) + (z ^ k - w ^ k) * w‖ := by ring_nf
      _ ≤ ‖z ^ k * (z - w)‖ + ‖(z ^ k - w ^ k) * w‖ := norm_add_le ..
      _ ≤ 1 * ‖z - w‖ + k * ‖z - w‖ * 1 := by
        rw [norm_mul, norm_mul, norm_pow]
        gcongr
        exact pow_le_one₀ (norm_nonneg z) hz
      _ = (k + 1 : Nat) * ‖z - w‖ := by
        push_cast
        ring

theorem abs_sineValue_sub_le (i : Nat) :
    |sineValue 64 i - ((scaledStep ^ i).im : ℝ) / (10 ^ 11) ^ i| ≤ (i : ℝ) * (2 / 10 ^ 11) := by
  rw [sineValue_eq_im_pow, ← approxStep_pow_im, ← Complex.sub_im]
  calc |(tableStep ^ i - approxStep ^ i).im| ≤ ‖tableStep ^ i - approxStep ^ i‖ := Complex.abs_im_le_norm _
    _ ≤ (i : ℝ) * ‖tableStep - approxStep‖ := norm_pow_sub_pow_le norm_tableStep.le norm_approxStep_le i
    _ ≤ (i : ℝ) * (2 / 10 ^ 11) := by
      gcongr
      exact norm_tableStep_sub_le

/-! ### The entries -/

/-- Every entry of the default table is within 0.49 of the scaled sine that the stand-in gives, said in integers. -/
theorem defaultTable_near_scaledStep : ∀ i < 64,
    100 * (memReadWT defaultConfig i * (10 ^ 11) ^ i - (scaledStep ^ i).im * 2 ^ 22).natAbs ≤ 49 * (10 ^ 11) ^ i := by
  decide

theorem abs_scaledStep_sub_entry_le {i : Nat} (hi : i < 64) :
    |((scaledStep ^ i).im : ℝ) / (10 ^ 11) ^ i * 2 ^ 22 - memReadWT defaultConfig i| ≤ 0.49 := by
  have near := defaultTable_near_scaledStep i hi
  rw [← Nat.cast_le (α := ℝ)] at near
  push_cast [Nat.cast_natAbs] at near
  have scale : (0 : ℝ) < (10 ^ 11) ^ i := by positivity
  have common : ((scaledStep ^ i).im : ℝ) / (10 ^ 11) ^ i * 2 ^ 22 - memReadWT defaultConfig i =
      -((memReadWT defaultConfig i * (10 ^ 11) ^ i - (scaledStep ^ i).im * 2 ^ 22) / (10 ^ 11) ^ i) := by
    field_simp
    ring
  rw [common, abs_neg, abs_div, abs_of_pos scale, div_le_iff₀ scale]
  linarith

/-- The stand-in's sine is off by less than 0.006 at SF = 22, so the entry is less than 1/2 away from the sine itself. -/
theorem abs_sineValue_sub_entry_lt {i : Nat} (hi : i < 64) :
    |sineValue 64 i * 2 ^ 22 - memReadWT defaultConfig i| < 1 / 2 := by
  have index_le : (i : ℝ) ≤ 64 := by exact_mod_cast hi.le
  obtain ⟨sine_lower, sine_upper⟩ := abs_le.mp (abs_sineValue_sub_le i)
  obtain ⟨entry_lower, entry_upper⟩ := abs_le.mp (abs_scaledStep_sub_entry_le hi)
  rw [abs_lt]
  constructor <;> linarith

/-! ### The obligation -/

/-- Settles O38: every entry is less than 1/2 away from the scaled sine, so it is its rounding. -/
theorem defaultTableIsTheQuantizedSine : Obligations.DefaultTableIsTheQuantizedSine :=
  ⟨rfl, fun _ hi => (roundHalfAwayReal_eq_of_abs_sub_lt (abs_sineValue_sub_entry_lt hi)).symm⟩

end Sys2Proof.Reference
end

section
/-! PROOFS. One sample: the interpolation, the gain and the phase advance (41_oscillator.md R129 to R132), with the obligations
InterpolationLiesBetweenNeighbours, GainTruncatesTowardZero, PhaseAdvanceIsTheExactRemainder and SamplesNeverOverflow. -/

namespace Sys2Proof.Machine

/-! ### The interpolation -/

/-- `value_at` one past an index wraps as the second read of the interpolation does (40_wavetable.md R115). -/
theorem valueAt_succ (c : Config) (i : Nat) : valueAt c ((i : Int) + 1) = memReadWT c ((i + 1) % c.n) := by
  rw [valueAt, floorMod, ← Nat.cast_add_one, ← Int.natCast_mod, Int.toNat_natCast]

/-- The interpolation is the first value plus the floor of the weighted difference over the reals (41_oscillator.md R129). -/
theorem lerp_eq_add_floor (c : Config) (p : Nat) :
    lerp c p = memReadWT c (p / 2 ^ c.f) +
      ⌊((memReadWT c ((p / 2 ^ c.f + 1) % c.n) - memReadWT c (p / 2 ^ c.f) : Int) : ℝ) * ((p % 2 ^ c.f : Nat) : ℝ) /
        2 ^ c.f⌋ := by
  rw [lerp, shiftRightFloor_eq_floor, phaseIndex, phaseFraction]
  push_cast
  rfl

/-- A fraction of 0 reads the table as it stands (41_oscillator.md R129 (b)). -/
theorem lerp_of_fraction_zero (c : Config) {p : Nat} (h : p % 2 ^ c.f = 0) : lerp c p = memReadWT c (p / 2 ^ c.f) := by
  rw [lerp_eq, h, Nat.cast_zero, mul_zero, Int.zero_ediv, add_zero]

/-- Two values of SW bits differ by less than 2^SW. -/
theorem abs_sub_lt_of_sampleInRange {sw : Nat} (hsw : 1 ≤ sw) {x y : Int} (hx : SampleInRange sw x)
    (hy : SampleInRange sw y) : |y - x| < 2 ^ sw := by
  obtain ⟨k, rfl⟩ := Nat.exists_eq_add_of_le' hsw
  unfold SampleInRange at hx hy
  rw [Nat.add_sub_cancel] at hx hy
  rw [abs_lt, pow_succ]
  omega

/-- A difference of two SW-bit values weighted by a fraction of F bits fits SW + 1 + F signed bits (41_oscillator.md R129 (d)). -/
theorem abs_sub_mul_lt {sw f weight : Nat} (hsw : 1 ≤ sw) {x y : Int} (hx : SampleInRange sw x) (hy : SampleInRange sw y)
    (h : weight < 2 ^ f) : |(y - x) * (weight : Int)| < 2 ^ (sw + f) := by
  rw [abs_mul, Nat.abs_cast, pow_add]
  exact mul_lt_mul'' (abs_sub_lt_of_sampleInRange hsw hx hy) (by exact_mod_cast h) (abs_nonneg _) (Int.natCast_nonneg _)

/-! ### The gain -/

/-- At unity gain the level passes as it is (41_oscillator.md R130 (a)). -/
@[simp] theorem applyGain_unity (l : Int) : applyGain l 127#7 = l := Int.mul_tdiv_cancel l (by decide)

/-- The gain is odd in the level (41_oscillator.md R130 (c)). -/
theorem applyGain_neg (l : Int) (g : Data7) : applyGain (-l) g = -applyGain l g := by
  rw [applyGain, neg_mul, tdiv, Int.neg_tdiv, applyGain, tdiv]

/-- The gain as sign and magnitude (41_oscillator.md R130). -/
theorem applyGain_eq_sign_mul (l : Int) (g : Data7) :
    applyGain l g = (l * (g.toNat : Int)).sign * ((l * (g.toNat : Int)).natAbs / 127 : Nat) := by
  rw [applyGain, tdiv_eq_sign_mul, show Int.sign 127 = 1 from rfl, mul_one]
  rfl

/-- Below unity gain the magnitude of a level other than 0 shrinks (41_oscillator.md R132). -/
theorem abs_applyGain_lt {l : Int} (hl : l ≠ 0) {g : Data7} (hg : g ≠ 127#7) : |applyGain l g| < |l| := by
  have code_lt : g.toNat < 127 := by
    have := g.isLt
    have : g.toNat ≠ 127 := fun h => hg (BitVec.eq_of_toNat_eq h)
    omega
  have magnitude_pos : 0 < l.natAbs := Int.natAbs_pos.mpr hl
  have magnitude : (applyGain l g).natAbs = l.natAbs * g.toNat / 127 := by
    rw [applyGain, tdiv, Int.natAbs_tdiv, Int.natAbs_mul]
    rfl
  have shrinks : l.natAbs * g.toNat / 127 < l.natAbs :=
    Nat.div_lt_of_lt_mul (mul_comm 127 l.natAbs ▸ Nat.mul_lt_mul_of_pos_left code_lt magnitude_pos)
  rw [Int.abs_eq_natAbs, Int.abs_eq_natAbs, magnitude]
  exact_mod_cast shrinks

/-- The lowest sample comes from the lowest level at unity gain alone (41_oscillator.md R132). -/
theorem eq_lowest_of_applyGain_eq_lowest {sw : Nat} {l : Int} {g : Data7} (range : SampleInRange sw l)
    (h : applyGain l g = -(2 ^ (sw - 1))) : l = -(2 ^ (sw - 1)) ∧ g = 127#7 := by
  have magnitude_pos : (0 : Int) < 2 ^ (sw - 1) := by positivity
  obtain ⟨above, -⟩ := applyGain_between l g
  have lowest : l = -(2 ^ (sw - 1)) := by
    obtain ⟨lo, -⟩ := range
    omega
  refine ⟨lowest, not_not.mp fun hg => ?_⟩
  have shrinks := abs_applyGain_lt (show l ≠ 0 by omega) hg
  rw [h, lowest] at shrinks
  exact lt_irrefl _ shrinks

/-! ### The largest magnitude of the table -/

theorem abs_le_maxEntry {c : Config} {x : Int} (h : x ∈ c.table) : |x| ≤ (maxEntry c : Int) := by
  rw [Int.abs_eq_natAbs, Nat.cast_le]
  exact List.le_max_of_le' 0 (List.mem_map_of_mem h) le_rfl

/-- The entries of a legal table are of SW bits, so their magnitudes are at most 2^(SW−1) (41_oscillator.md R132). -/
theorem maxEntry_le_of_wf {c : Config} (h : c.Wf) : (maxEntry c : Int) ≤ 2 ^ (c.sw - 1) := by
  obtain ⟨-, -, range, -⟩ := h
  have bound : maxEntry c ≤ 2 ^ (c.sw - 1) := by
    refine List.max_le_of_forall_le _ _ fun a ha => ?_
    obtain ⟨x, mem, rfl⟩ := List.mem_map.mp ha
    obtain ⟨lo, hi⟩ := range x mem
    zify
    exact abs_le.mpr ⟨lo, by omega⟩
  exact_mod_cast bound

theorem abs_lerp_le_maxEntry {c : Config} {p : Nat} (hlen : c.table.length = c.n) (hp : p < modulus c.toParams) :
    |lerp c p| ≤ (maxEntry c : Int) :=
  abs_le.mpr (lerp_mem_bounds c p hlen hp fun _ mem => abs_le.mp (abs_le_maxEntry mem))

/-! ### The obligations -/

/-- Settles O24: the two reads are table entries of SW bits, and the rest is one lemma per clause. -/
theorem interpolationLiesBetweenNeighbours : Obligations.InterpolationLiesBetweenNeighbours := by
  refine ⟨fun c p wf hp => ?_, by decide, by decide⟩
  obtain ⟨⟨two_le, -, -, -, -, -, -, two_le_sw, -⟩, hlen, range, -⟩ := wf
  have index_lt : p / 2 ^ c.f < c.n := phaseIndex_lt c p hp
  have next_lt : (p / 2 ^ c.f + 1) % c.n < c.n := Nat.mod_lt _ (by omega)
  have y0_range := range _ (memReadWT_mem c _ (index_lt.trans_eq hlen.symm))
  have y1_range := range _ (memReadWT_mem c _ (next_lt.trans_eq hlen.symm))
  have fraction_lt : p % 2 ^ c.f < 2 ^ c.f := Nat.mod_lt p (by positivity)
  obtain ⟨lower, upper⟩ := abs_lt.mp (abs_sub_mul_lt (by omega) y0_range y1_range fraction_lt)
  simp only [valueAt_of_lt c _ index_lt, valueAt_succ]
  exact ⟨lerp_eq_add_floor c p, (lerp_between c p).1, (lerp_between c p).2, lerp_mem_bounds c p hlen hp range,
    lerp_of_fraction_zero c, lower.le, Int.le_sub_one_of_lt upper⟩

/-- Settles O25: each law of the gain by its own lemma. -/
theorem gainTruncatesTowardZero : Obligations.GainTruncatesTowardZero := by
  refine ⟨fun l g => ⟨applyGain_eq_sign_mul l g, ?_, ?_, applyGain_neg l g, abs_applyGain_le l g⟩, by decide, by decide⟩
  · rintro rfl
    exact applyGain_unity l
  · rintro rfl
    exact applyGain_zero l

/-- Settles O26: the remainder of a positive modulus is below it, and the quotient counts the multiples taken off. -/
theorem phaseAdvanceIsTheExactRemainder : Obligations.PhaseAdvanceIsTheExactRemainder :=
  ⟨fun c p inc hn => ⟨Nat.mod_lt _ (Nat.mul_pos hn (by positivity)),
      (p + inc) / modulus c.toParams, (Nat.div_add_mod' _ _).symm⟩,
    by decide, by decide, by decide⟩

/-- Settles O27: the bounds of the table pass through the interpolation and the gain. -/
theorem samplesNeverOverflow : Obligations.SamplesNeverOverflow := by
  refine ⟨fun s wf hp => ?_, by decide +kernel⟩
  have ⟨_, hlen, range, _⟩ := wf
  exact ⟨fun lo hi => lerp_mem_bounds s.cfg s.phase hlen hp, abs_applyGain_le _ _, abs_lerp_le_maxEntry hlen hp,
    maxEntry_le_of_wf wf, sampleOf_sampleInRange s wf hp,
    eq_lowest_of_applyGain_eq_lowest (lerp_mem_bounds s.cfg s.phase hlen hp range)⟩

end Sys2Proof.Machine
end

section
/-! PROOFS. Samples in a row with no command between (41_oscillator.md R134, R135): the phase travels by INC, and the output
moves no faster than the table, with the obligations PhasePeriodicity and ConsecutiveSamplesAreContinuous. -/

namespace Sys2Proof.Machine

/-! ### Render steps with an empty channel -/

theorem drained_of_nil {s : State} (h : s.fifo = []) : drained s = s := by rw [drained, ← h]

/-- With nothing to drain the render step is NEXT_SAMPLE alone (43_render_loop.md R170). -/
theorem exec_sample_of_nil {s : State} (h : s.fifo = []) : exec .sample s = .next (nextSample s) := by
  rw [exec_sample, h, applyAll_nil, drained_of_nil h]

theorem sampleTimes_succ (k : Nat) {s t : State} (run : exec .sample s = .next t) :
    sampleTimes (k + 1) s = sampleTimes k t := by
  rw [sampleTimes, run]

theorem advance_advance (c : Config) (p a b : Nat) : advance c (advance c p a) b = advance c p (a + b) := by
  rw [advance, advance, advance, Nat.mod_add_mod, add_assoc]

theorem advance_zero {c : Config} {p : Nat} (h : p < modulus c.toParams) : advance c p 0 = p := Nat.mod_eq_of_lt h

/-- After k render steps with no command the phase has advanced by k · INC (41_oscillator.md R134). -/
theorem sampleTimes_phase (k : Nat) {s : State} (h : s.fifo = []) (hp : s.phase < modulus s.cfg.toParams) :
    ∃ t, sampleTimes k s = .next t ∧ t.phase = advance s.cfg s.phase (k * s.inc) := by
  induction k generalizing s with
  | zero => exact ⟨s, rfl, by rw [Nat.zero_mul, advance_zero hp]⟩
  | succ k ih =>
    obtain ⟨t, run, phase⟩ := ih (s := nextSample s) h (Nat.mod_lt _ (Nat.zero_lt_of_lt hp))
    refine ⟨t, (sampleTimes_succ k (exec_sample_of_nil h)).trans run, ?_⟩
    rw [phase, nextSample_cfg, nextSample_phase, nextSample_inc, advance_advance, Nat.succ_mul, add_comm]

/-- The phase is where it was exactly when it travelled whole table lengths (41_oscillator.md R134). -/
theorem advance_eq_self_iff {c : Config} {p : Nat} (h : p < modulus c.toParams) (q : Nat) :
    advance c p q = p ↔ modulus c.toParams ∣ q := by
  rw [← Nat.add_modEq_left_iff (a := p), Nat.ModEq, Nat.mod_eq_of_lt h, advance]

/-- Multiples of a step come back modulo m exactly at the multiples of m / gcd(m, step) (41_oscillator.md R134). -/
theorem dvd_mul_iff_div_gcd_dvd {m : Nat} (hm : m ≠ 0) (k a : Nat) : m ∣ k * a ↔ m / Nat.gcd m a ∣ k := by
  rw [← ZMod.addOrderOf_coe a hm, addOrderOf_dvd_iff_nsmul_eq_zero, nsmul_eq_mul, ← Nat.cast_mul,
    ZMod.natCast_eq_zero_iff]

/-- The rounded quotient times the divisor is within half a divisor of the dividend (00_scope.md R13). -/
theorem two_mul_abs_roundHalfUp_mul_sub_le (a : Int) {b : Nat} (hb : 0 < b) : 2 * |roundHalfUp a b * b - a| ≤ b := by
  have positive : (0 : Int) < 2 * b := by omega
  have lower := Int.ediv_mul_le (2 * a + b) positive.ne'
  have upper := Int.lt_ediv_add_one_mul_self (2 * a + b) positive
  rw [← abs_two, ← abs_mul, abs_le, roundHalfUp, floorDiv, Nat.cast_mul, Nat.cast_ofNat]
  constructor <;> linarith

theorem roundHalfUp_nonneg (a b : Nat) : 0 ≤ roundHalfUp a b := by
  unfold roundHalfUp floorDiv
  positivity

/-- A journey of one table length more or less ends in the same place (41_oscillator.md R131). -/
theorem advance_modEq_add_sub_modulus (c : Config) (p q : Nat) :
    (advance c p q : Int) ≡ p + (q - modulus c.toParams) [ZMOD modulus c.toParams] := by
  rw [Int.ModEq, advance, Int.natCast_mod, Int.emod_emod, Nat.cast_add, ← add_sub_assoc, Int.sub_emod_right]

/-! ### The scaled interpolation moves by one table difference per unit of phase -/

/-- The interpolated value before the shift, y0 · 2^F + (y1 − y0) · fr (41_oscillator.md R129). -/
def scaledLerp (c : Config) (p : Nat) : Int :=
  memReadWT c (p / 2 ^ c.f) * 2 ^ c.f +
    (memReadWT c ((p / 2 ^ c.f + 1) % c.n) - memReadWT c (p / 2 ^ c.f)) * ((p % 2 ^ c.f : Nat) : Int)

theorem lerp_eq_scaledLerp_div (c : Config) (p : Nat) : lerp c p = scaledLerp c p / 2 ^ c.f := by
  rw [lerp_eq, scaledLerp, add_comm (_ * _), Int.add_mul_ediv_right _ _ (by positivity), add_comm]

/-- The scaled interpolation at a phase given by its index and fraction (10_state.md R24). -/
theorem scaledLerp_mul_add (c : Config) (i : Nat) {r : Nat} (hr : r < 2 ^ c.f) :
    scaledLerp c (i * 2 ^ c.f + r) =
      memReadWT c i * 2 ^ c.f + (memReadWT c ((i + 1) % c.n) - memReadWT c i) * r := by
  have index : (i * 2 ^ c.f + r) / 2 ^ c.f = i := by
    rw [add_comm, Nat.add_mul_div_right _ _ (by positivity), Nat.div_eq_of_lt hr, zero_add]
  rw [scaledLerp, index, Nat.mul_add_mod_self_right, Nat.mod_eq_of_lt hr]

/-- One unit of phase further the scaled interpolation is the difference of the two entries further, also where the index
passes to the next entry or wraps (41_oscillator.md R135). -/
theorem scaledLerp_advance_one (c : Config) {i r : Nat} (hi : i < c.n) (hr : r < 2 ^ c.f) :
    scaledLerp c (advance c (i * 2 ^ c.f + r) 1) =
      scaledLerp c (i * 2 ^ c.f + r) + (memReadWT c ((i + 1) % c.n) - memReadWT c i) := by
  rw [scaledLerp_mul_add c i hr]
  rcases (Nat.succ_le_of_lt hr).lt_or_eq with inside | last
  · have next : advance c (i * 2 ^ c.f + r) 1 = i * 2 ^ c.f + (r + 1) := by
      refine Nat.mod_eq_of_lt (lt_of_lt_of_le ?_ (Nat.mul_le_mul_right (2 ^ c.f) (Nat.succ_le_of_lt hi)))
      rw [Nat.succ_mul]
      omega
    rw [next, scaledLerp_mul_add c i inside]
    push_cast
    ring
  · have next : advance c (i * 2 ^ c.f + r) 1 = (i + 1) % c.n * 2 ^ c.f + 0 := by
      rw [advance, modulus, add_zero, ← Nat.mul_mod_mul_right, Nat.succ_mul, add_assoc, ← Nat.succ_eq_add_one r, last]
    have whole : (2 : Int) ^ c.f = r + 1 := by exact_mod_cast last.symm
    rw [next, scaledLerp_mul_add c _ (by positivity), whole]
    push_cast
    ring

theorem abs_slope_le_maxSlope {c : Config} {i : Nat} (hi : i < c.n) :
    |memReadWT c ((i + 1) % c.n) - memReadWT c i| ≤ (maxSlope c : Int) := by
  rw [Int.abs_eq_natAbs, Nat.cast_le]
  exact List.le_max_of_le' 0 (List.mem_map.mpr ⟨i, List.mem_range.mpr hi, rfl⟩) le_rfl

/-- However far the phase travels, round the table too, the scaled interpolation moves by at most D per unit
(41_oscillator.md R135). -/
theorem abs_scaledLerp_advance_sub_le (c : Config) {p : Nat} (hp : p < modulus c.toParams) (q : Nat) :
    |scaledLerp c (advance c p q) - scaledLerp c p| ≤ (maxSlope c : Int) * q := by
  induction q with
  | zero => simp [advance_zero hp]
  | succ q ih =>
    have here_lt : advance c p q < modulus c.toParams := Nat.mod_lt _ (Nat.zero_lt_of_lt hp)
    have index_lt := phaseIndex_lt c _ here_lt
    have step := scaledLerp_advance_one c index_lt (Nat.mod_lt (advance c p q) (Nat.two_pow_pos c.f))
    rw [Nat.div_add_mod', advance_advance] at step
    have slope := abs_slope_le_maxSlope index_lt
    rw [step, Nat.cast_succ, mul_add, mul_one, add_sub_right_comm]
    exact (abs_add_le _ _).trans (add_le_add ih slope)

/-! ### The shift and the gain add less than one each -/

/-- Two floored quotients differ by less than 1 more than the exact ones. -/
theorem abs_ediv_sub_ediv_mul_lt (a b : Int) {w : Int} (hw : 0 < w) : |a / w - b / w| * w < |a - b| + w := by
  have a_lower := Int.ediv_mul_le a hw.ne'
  have b_lower := Int.ediv_mul_le b hw.ne'
  have a_upper := Int.lt_ediv_add_one_mul_self a hw
  have b_upper := Int.lt_ediv_add_one_mul_self b hw
  have upper := le_abs_self (a - b)
  have lower := neg_abs_le (a - b)
  rw [← abs_of_pos hw, ← abs_mul, abs_of_pos hw, abs_lt]
  constructor <;> linarith

/-- Two truncated quotients differ by less than 1 more than the exact ones, since truncation moves both towards 0. -/
theorem abs_tdiv_sub_tdiv_mul_lt (a b : Int) : |Int.tdiv a 127 - Int.tdiv b 127| * 127 < |a - b| + 127 := by
  have upper := le_abs_self (a - b)
  have lower := neg_abs_le (a - b)
  have divisor_sign : Int.sign 127 = 1 := rfl
  have a_cases := Int.tdiv_eq_ediv (a := a) (b := 127)
  have b_cases := Int.tdiv_eq_ediv (a := b) (b := 127)
  rw [← abs_of_pos (show (0 : Int) < 127 by decide), ← abs_mul, abs_of_pos (show (0 : Int) < 127 by decide), abs_lt]
  split at a_cases <;> split at b_cases <;> omega

/-- The gain brings levels no further apart (41_oscillator.md R130, R135). -/
theorem abs_applyGain_sub_le (l l' : Int) (g : Data7) : |applyGain l g - applyGain l' g| ≤ |l - l'| := by
  have code_le : (g.toNat : Int) ≤ 127 := by have := g.isLt; omega
  have truncated := abs_tdiv_sub_tdiv_mul_lt (l * g.toNat) (l' * g.toNat)
  have scaled : |l * g.toNat - l' * g.toNat| ≤ |l - l'| * 127 := by
    rw [← sub_mul, abs_mul, Nat.abs_cast]
    exact mul_le_mul_of_nonneg_left code_le (abs_nonneg _)
  unfold applyGain tdiv
  omega

/-- The output of two render steps in a row (41_oscillator.md R135). -/
theorem abs_sampleOf_nextSample_sub_mul_lt {s : State} (hp : s.phase < modulus s.cfg.toParams) :
    |sampleOf (nextSample s) - sampleOf s| * 2 ^ s.cfg.f < (maxSlope s.cfg : Int) * s.inc + 2 ^ s.cfg.f := by
  have whole_pos : (0 : Int) < 2 ^ s.cfg.f := by positivity
  calc |sampleOf (nextSample s) - sampleOf s| * 2 ^ s.cfg.f
      ≤ |lerp s.cfg (advance s.cfg s.phase s.inc) - lerp s.cfg s.phase| * 2 ^ s.cfg.f :=
        mul_le_mul_of_nonneg_right (abs_applyGain_sub_le _ _ s.gain) whole_pos.le
    _ < |scaledLerp s.cfg (advance s.cfg s.phase s.inc) - scaledLerp s.cfg s.phase| + 2 ^ s.cfg.f := by
        rw [lerp_eq_scaledLerp_div, lerp_eq_scaledLerp_div]
        exact abs_ediv_sub_ediv_mul_lt _ _ whole_pos
    _ ≤ maxSlope s.cfg * s.inc + 2 ^ s.cfg.f := by
        gcongr
        exact abs_scaledLerp_advance_sub_le s.cfg hp s.inc

/-! ### The obligations -/

/-- Settles O28: k render steps advance the phase by k · INC, and the rest is arithmetic of that distance modulo M. -/
theorem phasePeriodicity : Obligations.PhasePeriodicity := by
  refine ⟨fun s empty hp => ?_, by decide, by decide⟩
  have modulus_pos : 0 < modulus s.cfg.toParams := Nat.zero_lt_of_lt hp
  have returns (k : Nat) := dvd_mul_iff_div_gcd_dvd modulus_pos.ne' k s.inc
  refine ⟨fun k => ?_, ⟨(returns _).mpr dvd_rfl, ?_, fun k k_pos dvd => ?_⟩, fun inc_pos => ?_⟩
  · obtain ⟨t, run, phase⟩ := sampleTimes_phase k empty hp
    exact ⟨t, run, phase, phase ▸ advance_eq_self_iff hp _⟩
  · exact Nat.div_pos (Nat.gcd_le_left _ modulus_pos) (Nat.gcd_pos_of_pos_left _ modulus_pos)
  · exact Nat.le_of_dvd k_pos ((returns k).mp dvd)
  · set m := modulus s.cfg.toParams
    obtain ⟨t, run, phase⟩ := sampleTimes_phase (roundHalfUp (m : Int) s.inc).toNat empty hp
    refine ⟨t, _, run, two_mul_abs_roundHalfUp_mul_sub_le m inc_pos, ?_⟩
    have travelled := advance_modEq_add_sub_modulus s.cfg s.phase ((roundHalfUp (m : Int) s.inc).toNat * s.inc)
    rwa [← phase, Nat.cast_mul, Int.toNat_of_nonneg (roundHalfUp_nonneg m s.inc)] at travelled

/-- Settles O29: the second render step finds FIFO empty, so it samples one advance later at the same gain. -/
theorem consecutiveSamplesAreContinuous : Obligations.ConsecutiveSamplesAreContinuous := by
  refine ⟨fun s t u wf first second => ?_, by decide +kernel⟩
  set a := applyAll s.fifo (drained s) with ha
  obtain ⟨-, phase_lt, -⟩ : a.Wf := applyAll_wf s.fifo (drained_wf wf)
  have cfg_eq : a.cfg = s.cfg := by rw [ha, applyAll_cfg, drained_cfg]
  have fifo_eq : (nextSample a).fifo = [] := by rw [nextSample_fifo, ha, applyAll_fifo, drained_fifo]
  obtain rfl : nextSample a = t := Host.Outcome.next.inj first
  obtain rfl : nextSample (nextSample a) = u := Host.Outcome.next.inj ((exec_sample_of_nil fifo_eq).symm.trans second)
  have near := abs_sampleOf_nextSample_sub_mul_lt phase_lt
  have whole_pos : (0 : Int) < 2 ^ s.cfg.f := by positivity
  rw [cfg_eq] at near
  rw [nextSample_out, nextSample_out, nextSample_inc]
  linarith

end Sys2Proof.Machine
end

section
/-! PROOFS. The note-increment ROM against the real formula (41_oscillator.md R120, R122, R133), with the obligations
NoteRomRoundsTheReference and OutputFrequencyIsNearTheNote. -/

namespace Sys2Proof.Reference

open Sys2Proof.Machine

/-! ### The frequency of a note -/

theorem noteFrequency_pos (note : Nat) : 0 < noteFrequency note := by
  unfold noteFrequency
  positivity

theorem noteFrequency_69 : noteFrequency 69 = 440 := by norm_num [noteFrequency]

theorem noteFrequency_pow_twelve (note : Nat) : noteFrequency note ^ 12 = 440 ^ 12 * (2 ^ note / 2 ^ 69) := by
  rw [noteFrequency, mul_pow, ← Real.rpow_mul_natCast (by norm_num), Nat.cast_ofNat, div_mul_cancel₀ _ (by norm_num),
    Real.rpow_sub (by norm_num), Real.rpow_natCast, Real.rpow_ofNat]

/-- A higher note is a semitone higher at least (41_oscillator.md R120). -/
theorem semitone_mul_noteFrequency_le {m n : Nat} (h : m < n) :
    (2 : ℝ) ^ ((1 : ℝ) / 12) * noteFrequency m ≤ noteFrequency n := by
  have above : (m : ℝ) + 1 ≤ n := by exact_mod_cast h
  rw [noteFrequency, mul_left_comm, ← Real.rpow_add (by norm_num), noteFrequency]
  gcongr
  · norm_num
  · linarith

/-- No MIDI note is more than 72 semitones, six octaves, below note 69. -/
theorem noteFrequency_ge (note : Nat) : 440 / 64 ≤ noteFrequency note := by
  have octaves : (2 : ℝ) ^ (-6 : ℝ) ≤ 2 ^ (((note : ℝ) - 69) / 12) := by
    have : (0 : ℝ) ≤ note := Nat.cast_nonneg note
    gcongr
    · norm_num
    · linarith
  rw [Real.rpow_neg (by norm_num), Real.rpow_ofNat] at octaves
  unfold noteFrequency
  linarith

/-- A semitone is a factor of at least 25/24, so the threshold of 41_oscillator.md R122 is at most 24. -/
theorem semitone_ge : 25 / 24 ≤ (2 : ℝ) ^ ((1 : ℝ) / 12) := by
  refine le_of_pow_le_pow_left₀ (n := 12) (by norm_num) (by positivity) ?_
  rw [← Real.rpow_mul_natCast (by norm_num)]
  norm_num

/-! ### The reference increment in units of 2^(−F) step -/

/-- The unrounded ROM entry of a note, inc_ref(note) · 2^F (41_oscillator.md R122). -/
noncomputable def unroundedEntry (p : Params) (note : Nat) : ℝ := incRef p note * 2 ^ p.f

theorem unroundedEntry_eq (p : Params) (note : Nat) :
    unroundedEntry p note = noteFrequency note * (p.n / p.fs * 2 ^ p.f) := by
  rw [unroundedEntry, incRef]
  ring

theorem unroundedEntry_nonneg (p : Params) (note : Nat) : 0 ≤ unroundedEntry p note := by
  rw [unroundedEntry_eq]
  exact mul_nonneg (noteFrequency_pos note).le (by positivity)

/-- The twelfth power of the doubled entry is rational, so its floor is a quotient of integers (41_oscillator.md R122). -/
theorem floor_two_mul_unroundedEntry_pow (p : Params) (note : Nat) :
    ⌊(2 * unroundedEntry p note) ^ 12⌋₊ = (880 * p.n * 2 ^ p.f) ^ 12 * 2 ^ note / (p.fs ^ 12 * 2 ^ 69) := by
  have rational : (2 * unroundedEntry p note) ^ 12 =
      (((880 * p.n * 2 ^ p.f) ^ 12 * 2 ^ note : Nat) : ℝ) / ((p.fs ^ 12 * 2 ^ 69 : Nat) : ℝ) := by
    rw [unroundedEntry_eq, mul_pow, mul_pow, noteFrequency_pow_twelve]
    push_cast
    ring
  rw [rational, Nat.floor_div_eq_div]

/-! ### The integer computation of an entry -/

/-- The integer root of the floor of a twelfth power is the floor of its base. -/
theorem floorRoot12_floor_pow {x : ℝ} (hx : 0 ≤ x) : floorRoot12 ⌊x ^ 12⌋₊ = ⌊x⌋₊ := by
  obtain ⟨lower, upper⟩ := floorRoot12_spec ⌊x ^ 12⌋₊
  have power_nonneg : 0 ≤ x ^ 12 := pow_nonneg hx 12
  rw [Nat.le_floor_iff power_nonneg, Nat.cast_pow] at lower
  rw [Nat.floor_lt power_nonneg, Nat.cast_pow] at upper
  refine ((Nat.floor_eq_iff hx).mpr ⟨?_, ?_⟩).symm
  · exact le_of_pow_le_pow_left₀ (by norm_num) hx lower
  · exact_mod_cast lt_of_pow_lt_pow_left₀ 12 (by positivity) upper

/-- Half of the floor of 2x, rounded up, is x rounded half up (00_scope.md R13). -/
theorem floor_two_mul_add_one_div_two {x : ℝ} (hx : 0 ≤ x) : (⌊2 * x⌋₊ + 1) / 2 = ⌊x + 1 / 2⌋₊ := by
  rw [← Nat.floor_add_one (by positivity), ← Nat.floor_div_ofNat]
  congr 1
  ring

/-- The entry the model computes with integers is the unrounded entry rounded half up (41_oscillator.md R122). -/
theorem ntEntry_eq_floor (p : Params) (note : Nat) : ntEntry p note = ⌊unroundedEntry p note + 1 / 2⌋₊ := by
  have nonneg := unroundedEntry_nonneg p note
  rw [ntEntry, ← floor_two_mul_unroundedEntry_pow, floorRoot12_floor_pow (by positivity),
    floor_two_mul_add_one_div_two nonneg]

/-- Rounding moves an entry by at most 1/2 (41_oscillator.md R122). -/
theorem abs_ntEntry_sub_le (p : Params) (note : Nat) : |(ntEntry p note : ℝ) - unroundedEntry p note| ≤ 1 / 2 := by
  have nonneg : 0 ≤ unroundedEntry p note + 1 / 2 := by linarith [unroundedEntry_nonneg p note]
  have lower := Nat.floor_le nonneg
  have upper := Nat.lt_floor_add_one (unroundedEntry p note + 1 / 2)
  rw [← ntEntry_eq_floor] at lower upper
  rw [abs_le]
  constructor <;> linarith

/-- Above the threshold a semitone adds more than 1 to an entry, so rounding keeps the order (41_oscillator.md R122). -/
theorem ntEntry_lt_of_threshold_lt {p : Params} {m n : Nat} (h : m < n)
    (threshold : 1 / ((2 : ℝ) ^ ((1 : ℝ) / 12) - 1) < unroundedEntry p m) : ntEntry p m < ntEntry p n := by
  have semitone := semitone_ge
  have rises : (2 : ℝ) ^ ((1 : ℝ) / 12) * unroundedEntry p m ≤ unroundedEntry p n := by
    rw [unroundedEntry_eq, unroundedEntry_eq, ← mul_assoc]
    exact mul_le_mul_of_nonneg_right (semitone_mul_noteFrequency_le h) (by positivity)
  have more_than_one : 1 < unroundedEntry p m * ((2 : ℝ) ^ ((1 : ℝ) / 12) - 1) :=
    (div_lt_iff₀ (by linarith)).mp threshold
  have nonneg := unroundedEntry_nonneg p m
  rw [ntEntry_eq_floor, ntEntry_eq_floor, Nat.lt_iff_add_one_le, ← Nat.floor_add_one (by linarith)]
  exact Nat.floor_le_floor (by linarith)

theorem threshold_lt_default_unroundedEntry (note : Nat) :
    1 / ((2 : ℝ) ^ ((1 : ℝ) / 12) - 1) < unroundedEntry defaultParams note := by
  have semitone := semitone_ge
  have lowest := noteFrequency_ge note
  calc 1 / ((2 : ℝ) ^ ((1 : ℝ) / 12) - 1) ≤ 24 := by
        rw [div_le_iff₀ (by linarith)]
        linarith
    _ < 440 / 64 * (64 / 44100 * 2 ^ 16) := by norm_num
    _ ≤ unroundedEntry defaultParams note := by
        rw [unroundedEntry_eq]
        norm_num [defaultParams]
        linarith

/-- A ROM entry of 2^IW or more leaves no legal configuration to construct (41_oscillator.md R122). -/
theorem construct_error_of_ntEntry_ge (p : Params) (src : TableSource) {note : Nat} (hnote : note < 128)
    (wide : 2 ^ p.iw ≤ ntEntry p note) : ∃ e, construct p src = .error e := by
  cases built : construct p src with
  | error e => exact ⟨e, rfl⟩
  | ok s =>
    obtain ⟨-, rfl, -, -, -, -, fits⟩ := (construct_eq_ok_iff p src s).mp built
    exact absurd (fits _ (List.mem_map_of_mem (List.mem_range.mpr hnote))) (not_lt.mpr wide)

/-! ### The output frequency -/

/-- The output frequency is proportional to the increment, and at the unrounded entry it is the note's own
(41_oscillator.md R133). -/
theorem outputFrequency_sub_noteFrequency {p : Params} (ok : p.Ok) (note : Nat) :
    outputFrequency p (ntEntry p note) - noteFrequency note =
      (ntEntry p note - unroundedEntry p note) * (p.fs / modulus p) := by
  obtain ⟨two_le, -, one_le, -⟩ := ok
  have length_ne : (p.n : ℝ) ≠ 0 := by positivity
  have rate_ne : (p.fs : ℝ) ≠ 0 := by positivity
  rw [outputFrequency, unroundedEntry_eq, modulus]
  push_cast
  field_simp

theorem abs_outputFrequency_sub_le {p : Params} (ok : p.Ok) (note : Nat) :
    |outputFrequency p (ntEntry p note) - noteFrequency note| ≤ p.fs / (2 * modulus p) := by
  rw [outputFrequency_sub_noteFrequency ok, abs_mul, abs_of_nonneg (show (0 : ℝ) ≤ p.fs / modulus p by positivity)]
  calc |(ntEntry p note : ℝ) - unroundedEntry p note| * (p.fs / modulus p) ≤ 1 / 2 * (p.fs / modulus p) := by
        gcongr
        exact abs_ntEntry_sub_le p note
    _ = p.fs / (2 * modulus p) := by ring

/-! ### The obligations -/

/-- Settles O31: the twelfth root is exact, so the entries are rounded reals, and they rise where a semitone adds more than 1. -/
theorem noteRomRoundsTheReference : Obligations.NoteRomRoundsTheReference := by
  refine ⟨fun p note _ => ?_, fun p src note => construct_error_of_ntEntry_ge p src, fun p _ threshold m n hmn hn => ?_,
    fun note _ => threshold_lt_default_unroundedEntry note⟩
  · rw [ntEntry_eq_floor, Int.natCast_floor_eq_floor]
    · rfl
    · linarith [unroundedEntry_nonneg p note]
  · exact ntEntry_lt_of_threshold_lt hmn (threshold m (hmn.trans hn))

/-- Settles O32: half a unit of the increment is FS / (2 · M) Hz; the figures are those of the exact quotients. -/
theorem outputFrequencyIsNearTheNote : Obligations.OutputFrequencyIsNearTheNote := by
  refine ⟨fun p note ok => abs_outputFrequency_sub_le ok note, ?_, ?_, ?_⟩
  · norm_num [outputFrequency, defaultParams, abs_le]
  · norm_num [outputFrequency, defaultParams, abs_le]
  · rw [noteFrequency_69]
    norm_num [outputFrequency, defaultParams, abs_le]

end Sys2Proof.Reference
end

section
/-! PROOFS. The distance of a sample from the real-valued reference (41_oscillator.md R136), with the obligation
SampleIsNearTheReference. -/

namespace Sys2Proof.Reference

open Sys2Proof.Machine

/-! ### The level -/

theorem mul_lerpRef (a : ℝ) (n : Nat) (x : Nat → ℝ) (phase : ℝ) :
    a * lerpRef n x phase = lerpRef n (fun i => x i * a) phase := by
  unfold lerpRef
  ring

/-- Interpolating between values at most ε apart gives values at most ε apart, since the weights add up to 1. -/
theorem abs_lerpRef_sub_le {n : Nat} {y z : Nat → ℝ} {ε phase : ℝ} (nonneg : 0 ≤ phase) (inside : phase < n)
    (near : ∀ i < n, |y i - z i| ≤ ε) : |lerpRef n y phase - lerpRef n z phase| ≤ ε := by
  have index_lt : ⌊phase⌋₊ < n := (Nat.floor_lt nonneg).mpr inside
  have next_lt : (⌊phase⌋₊ + 1) % n < n := Nat.mod_lt _ (Nat.zero_lt_of_lt index_lt)
  have weight_nonneg := Int.fract_nonneg phase
  have rest_nonneg : 0 ≤ 1 - Int.fract phase := sub_nonneg.mpr (Int.fract_lt_one phase).le
  have weighted : lerpRef n y phase - lerpRef n z phase =
      (1 - Int.fract phase) * (y ⌊phase⌋₊ - z ⌊phase⌋₊) +
        Int.fract phase * (y ((⌊phase⌋₊ + 1) % n) - z ((⌊phase⌋₊ + 1) % n)) := by
    unfold lerpRef
    ring
  rw [weighted]
  calc _ ≤ (1 - Int.fract phase) * |y ⌊phase⌋₊ - z ⌊phase⌋₊| +
        Int.fract phase * |y ((⌊phase⌋₊ + 1) % n) - z ((⌊phase⌋₊ + 1) % n)| := by
        refine (abs_add_le _ _).trans_eq ?_
        rw [abs_mul, abs_mul, abs_of_nonneg rest_nonneg, abs_of_nonneg weight_nonneg]
    _ ≤ (1 - Int.fract phase) * ε + Int.fract phase * ε := by
        gcongr
        · exact near _ index_lt
        · exact near _ next_lt
    _ = ε := by ring

/-- At a phase of the datapath the reference interpolation reads the same indices with the same weight
(41_oscillator.md R136). -/
theorem lerpRef_phase (c : Config) (y : Nat → ℝ) (p : Nat) :
    lerpRef c.n y ((p : ℝ) / 2 ^ c.f) =
      y (p / 2 ^ c.f) + (y ((p / 2 ^ c.f + 1) % c.n) - y (p / 2 ^ c.f)) * (((p % 2 ^ c.f : Nat) : ℝ) / 2 ^ c.f) := by
  have whole : (2 : ℝ) ^ c.f = ((2 ^ c.f : Nat) : ℝ) := by push_cast; rfl
  rw [lerpRef, whole, Nat.floor_div_eq_div, Int.fract_div_natCast_eq_div_natCast_mod]

/-- The shift floors, so it takes less than 1 off the interpolation of the table's own entries (41_oscillator.md R136). -/
theorem abs_lerp_sub_lerpRef_entries_lt (c : Config) (p : Nat) :
    |(lerp c p : ℝ) - lerpRef c.n (fun i => memReadWT c i) ((p : ℝ) / 2 ^ c.f)| < 1 := by
  rw [lerpRef_phase, lerp_eq_add_floor, mul_div_assoc]
  push_cast
  rw [add_sub_add_left_eq_sub]
  exact Int.abs_sub_lt_one_of_floor_eq_floor (Int.floor_intCast _)

/-- Table quantization and the floor together move the level by less than 3/2 (41_oscillator.md R136). -/
theorem abs_lerp_sub_lerpRef_lt {c : Config} {x : Nat → ℝ} (quantized : Quantizes c x) {p : Nat}
    (hp : p < modulus c.toParams) : |(lerp c p : ℝ) - 2 ^ c.sf * lerpRef c.n x ((p : ℝ) / 2 ^ c.f)| < 3 / 2 := by
  obtain ⟨-, entries⟩ := quantized
  have entry_near : ∀ i < c.n, |(memReadWT c i : ℝ) - x i * 2 ^ c.sf| ≤ 1 / 2 := fun i hi => by
    rw [entries i hi, abs_sub_comm]
    exact abs_sub_roundHalfAwayReal_le _
  have inside : (p : ℝ) / 2 ^ c.f < c.n := by
    rw [div_lt_iff₀ (by positivity)]
    exact_mod_cast hp
  have quantization := abs_lerpRef_sub_le (by positivity) inside entry_near
  rw [mul_lerpRef]
  refine (abs_sub_le _ (lerpRef c.n (fun i => memReadWT c i) ((p : ℝ) / 2 ^ c.f)) _).trans_lt ?_
  linarith [abs_lerp_sub_lerpRef_entries_lt c p]

/-! ### The sample and the drift -/

/-- The truncation of the gain takes less than 1 off (41_oscillator.md R136). -/
theorem abs_applyGain_sub_lt (l : Int) (g : Data7) : |(applyGain l g : ℝ) - l * (g.toNat / 127)| < 1 := by
  have truncated : |127 * (applyGain l g : ℝ) - l * g.toNat| < 127 := by
    exact_mod_cast tdiv_127_bounds (l * g.toNat)
  obtain ⟨lower, upper⟩ := abs_lt.mp truncated
  rw [abs_lt]
  constructor <;> linarith

/-- A sample is nearer than 5/2 to the reference: the gain factor, at most 1, does not enlarge the error of the level, and
its truncation adds less than 1 (41_oscillator.md R136). -/
theorem abs_sampleOf_sub_sampleRef_lt {s : State} {x : Nat → ℝ} (quantized : Quantizes s.cfg x)
    (hp : s.phase < modulus s.cfg.toParams) : |(sampleOf s : ℝ) - sampleRef s x| < 5 / 2 := by
  have gain_le : (s.gain.toNat : ℝ) / 127 ≤ 1 := by
    rw [div_le_one (by norm_num)]
    exact_mod_cast Nat.le_of_lt_succ s.gain.isLt
  have gain_nonneg : 0 ≤ (s.gain.toNat : ℝ) / 127 := by positivity
  have level := abs_lerp_sub_lerpRef_lt quantized hp
  have scaled : |(lerp s.cfg s.phase : ℝ) * (s.gain.toNat / 127) - sampleRef s x| ≤
      |(lerp s.cfg s.phase : ℝ) - 2 ^ s.cfg.sf * lerpRef s.cfg.n x ((s.phase : ℝ) / 2 ^ s.cfg.f)| := by
    rw [sampleRef, mul_right_comm, ← sub_mul, abs_mul, abs_of_nonneg gain_nonneg]
    exact mul_le_of_le_one_right (abs_nonneg _) gain_le
  have truncation : |(sampleOf s : ℝ) - lerp s.cfg s.phase * (s.gain.toNat / 127)| < 1 := abs_applyGain_sub_lt _ s.gain
  refine (abs_sub_le _ (lerp s.cfg s.phase * ((s.gain.toNat : ℝ) / 127)) _).trans_lt ?_
  linarith

/-- k rounded increments drift from k reference increments by at most k half units of the phase (41_oscillator.md R136). -/
theorem abs_drift_le (p : Params) (note k : Nat) :
    |(k : ℝ) * (ntEntry p note : ℝ) / 2 ^ p.f - (k : ℝ) * incRef p note| ≤ (k : ℝ) / 2 ^ (p.f + 1) := by
  have whole_pos : (0 : ℝ) < 2 ^ p.f := by positivity
  have drift : (k : ℝ) * (ntEntry p note : ℝ) / 2 ^ p.f - (k : ℝ) * incRef p note =
      k / 2 ^ p.f * (ntEntry p note - unroundedEntry p note) := by
    rw [unroundedEntry]
    field_simp
  rw [drift, abs_mul, abs_of_nonneg (show (0 : ℝ) ≤ k / 2 ^ p.f by positivity)]
  calc (k : ℝ) / 2 ^ p.f * |(ntEntry p note : ℝ) - unroundedEntry p note| ≤ k / 2 ^ p.f * (1 / 2) := by
        gcongr
        exact abs_ntEntry_sub_le p note
    _ = k / 2 ^ (p.f + 1) := by
        rw [pow_succ, div_mul_div_comm, mul_one]

/-! ### The obligation -/

/-- Settles O30: 1/2 from the table, less than 1 from the floor and less than 1 from the truncation; and 1/2 per increment. -/
theorem sampleIsNearTheReference : Obligations.SampleIsNearTheReference :=
  ⟨fun _ _ _ hp quantized => abs_sampleOf_sub_sampleRef_lt quantized hp, fun p note k _ => abs_drift_le p note k⟩

end Sys2Proof.Reference
end

section
/-! PROOFS. The accept step (42_command_mapper.md R150 to R160), with the obligations AcceptIsDecodeThenPush,
ChannelNibbleIsNeverExamined, PushEvictsOnlyTheOldest, OverflowKeepsTheLatestCommands, NoteOnMessagePushesItsWord,
VelocityZeroPushesANoteOff, NoteOffMessagePushesItsWord and IgnoredMessagesChangeNothing. -/

namespace Sys2Proof.Machine

/-! ### One accept step -/

/-- The accept step pushes the word that R151 gives for the message, or leaves the state alone (R150). -/
theorem exec_decode_msg (len : Nat) (b0 b1 b2 : Byte) (s : State) :
    exec (decode (.msg len b0 b1 b2)) s = .next ((commandOf len b0 b1 b2).elim s (push · s)) := by
  rw [commandOf_eq_pushedWord]
  rcases decodeMsg_ignored_or_pushes_legal len b0 b1 b2 with ignored | ⟨c, pushes, -⟩
  · rw [pushedWord_of_ignored ignored]
    exact exec_of_ignored ignored s
  · rw [pushes]
    exact exec_of_pushedWord pushes s

/-- Of the status byte, R151 reads KIND only: bit 7 is the top bit of KIND (R157). -/
theorem commandOf_congr_kind {b0 b0' : Byte} (same : kindOf b0 = kindOf b0') (len : Nat) (b1 b2 : Byte) :
    commandOf len b0 b1 b2 = commandOf len b0' b1 b2 := by
  simp only [commandOf, highBit_eq_kindOf b0, highBit_eq_kindOf b0', same]

/-- The two kinds of a note message by the number of the status byte (R84). -/
theorem isNoteKind_kindOf_iff (b : Byte) : IsNoteKind (kindOf b) ↔ b.toNat / 16 = 8 ∨ b.toNat / 16 = 9 :=
  or_congr (kindOf_eq_iff b kindNoteOff) (kindOf_eq_iff b kindNoteOn)

/-- A message that is no note message with two data bytes is ignored, whatever its length (R155). -/
theorem decodeMsg_ignored_of_not_note {len : Nat} {b0 b1 b2 : Byte}
    (other : ¬ (len = 3 ∧ IsNoteKind (kindOf b0) ∧ highBit b1 = false ∧ highBit b2 = false)) :
    (decodeMsg len b0 b1 b2).ignored = true := by
  by_cases three : len = 3
  · subst three
    exact (messageRow_decodeMsg 3 b0 b1 b2).ignored_of_not_note fun note => other ⟨rfl, note⟩
  · rw [(MessageRow.len three).decodeMsg_eq]
    rfl

/-! ### The number of the word pushed -/

/-- The word of R152 by its number. -/
theorem noteOnWord_eq_ofNat (n v : Data7) : noteOnWord n v = BitVec.ofNat 15 (0x4000 + 128 * n.toNat + v.toNat) := by
  obtain ⟨number, -⟩ := commandWordLayout.1 n v
  rw [← number, BitVec.ofNat_toNat, BitVec.setWidth_eq]

/-- The word of R153 and R154 by its number. -/
theorem noteOffWord_eq_ofNat (n : Data7) : noteOffWord n = BitVec.ofNat 15 (128 * n.toNat) := by
  obtain ⟨number, -⟩ := commandWordLayout.2.1 n
  rw [← number, BitVec.ofNat_toNat, BitVec.setWidth_eq]

/-! ### The channel after a push -/

theorem length_pushWord {cap : Nat} {l : List Cmd} (c : Cmd) (h1 : 1 ≤ cap) (h : l.length ≤ cap) :
    (pushWord cap l c).length = min (l.length + 1) cap := by
  rw [pushWord_eq_drop cap l c h1 h, List.length_drop, List.length_append, List.length_singleton]
  omega

theorem getLast?_pushWord (cap : Nat) (l : List Cmd) (c : Cmd) : (pushWord cap l c).getLast? = some c :=
  List.getLast?_concat

/-- A push onto the newest CAP words of a sequence leaves the newest CAP words of the longer one (R160). -/
theorem pushWord_rtake {cap : Nat} (u : List Cmd) (c : Cmd) (h1 : 1 ≤ cap) :
    pushWord cap (u.rtake cap) c = (u ++ [c]).rtake cap := by
  rw [List.rtake, pushWord_drop cap u c h1, List.rtake, List.length_append, List.length_singleton]

/-! ### Many accept steps with no render step between -/

/-- The words that a list of messages pushes, in push order (R151). -/
def wordsOf (ms : List Message) : List Cmd := ms.filterMap fun m => commandOf m.len m.b0 m.b1 m.b2

theorem acceptAll_cons (m : Message) (rest : List Message) (s : State) :
    acceptAll (m :: rest) s = acceptAll rest ((commandOf m.len m.b0 m.b1 m.b2).elim s (push · s)) := by
  rw [acceptAll, exec_decode_msg]

/-- The invariant of R160: a channel that holds the newest CAP words of a sequence holds, after more messages, the
newest CAP words of the sequence they make longer. -/
theorem acceptAll_rtake (ms : List Message) (u : List Cmd) (s : State) (h1 : 1 ≤ s.cfg.cap) :
    acceptAll ms { s with fifo := u.rtake s.cfg.cap } =
      .next { s with fifo := (u ++ wordsOf ms).rtake s.cfg.cap } := by
  induction ms generalizing u with
  | nil => rw [wordsOf, List.filterMap_nil, List.append_nil, acceptAll]
  | cons m rest ih =>
    rw [acceptAll_cons]
    cases word : commandOf m.len m.b0 m.b1 m.b2 with
    | none =>
      have same : wordsOf (m :: rest) = wordsOf rest := List.filterMap_cons_none word
      rw [same]
      exact ih u
    | some c =>
      have longer : wordsOf (m :: rest) = c :: wordsOf rest := List.filterMap_cons_some word
      rw [longer, List.append_cons, Option.elim_some, push, pushWord_rtake u c h1]
      exact ih (u ++ [c])

/-- From an empty channel the sequence is that of the messages alone. -/
theorem acceptAll_of_fifo_nil (ms : List Message) {s : State} (h1 : 1 ≤ s.cfg.cap) (empty : s.fifo = []) :
    acceptAll ms s = .next { s with fifo := (wordsOf ms).rtake s.cfg.cap } := by
  have start : s = { s with fifo := List.rtake [] s.cfg.cap } := by rw [List.rtake_nil, ← empty]
  conv_lhs => rw [start]
  exact acceptAll_rtake ms [] s h1

/-! ### A NoteOff as the newest word -/

/-- The render step after a NoteOff, whatever was in the channel before it, ends with gain 0 and puts out 0 (R154). -/
theorem exec_sample_of_last_off {s : State} {ws : List Cmd} {c : Cmd} (fifo : s.fifo = ws ++ [c])
    (off : cmdIsOn c = false) : ∃ u, exec .sample s = .next u ∧ u.gain = 0#7 ∧ u.out = 0 := by
  have gain : (applyAll s.fifo (drained s)).gain = 0#7 := by rw [fifo, applyAll_concat, applyWord_off _ _ off]
  refine ⟨_, exec_sample s, gain, ?_⟩
  rw [nextSample_out, sampleOf, gain, applyGain_zero]

/-! ### The obligations -/

/-- Settles O12: the decode map and R151 agree on the word, and each operation pushes its word or does nothing. -/
theorem acceptIsDecodeThenPush : Obligations.AcceptIsDecodeThenPush := by
  intro len b0 b1 b2 s
  rw [exec_decode_msg]
  cases commandOf len b0 b1 b2 <;> rfl

/-- Settles O13: the word pushed depends on KIND only, and the two status bytes have the same KIND. -/
theorem channelNibbleIsNeverExamined : Obligations.ChannelNibbleIsNeverExamined := by
  intro len kind c c' b1 b2 s
  have same : kindOf (kind ++ c) = kindOf (kind ++ c') := by rw [kindOf_append, kindOf_append]
  rw [exec_decode_msg, exec_decode_msg, commandOf_congr_kind same]

/-- Settles O14: a message operation that is not ignored is a push, and a push keeps the newest CAP words. -/
theorem pushEvictsOnlyTheOldest : Obligations.PushEvictsOnlyTheOldest := by
  intro i s message recognised h1 h
  obtain ⟨c, pushes⟩ := (ignored_or_pushes_of_priority message).resolve_left (by simp [recognised])
  exact ⟨push c s, c, exec_of_pushedWord pushes s, length_pushWord c h1 h, pushWord_eq_drop _ _ c h1 h,
    getLast?_pushWord _ _ c, rfl⟩

/-- Settles O15: an empty channel holds the newest CAP words of the empty sequence, and every message keeps that
relation. -/
theorem overflowKeepsTheLatestCommands : Obligations.OverflowKeepsTheLatestCommands :=
  ⟨fun ms _ h1 empty => acceptAll_of_fifo_nil ms h1 empty, acceptAll_of_fifo_nil _ (by decide) rfl⟩

/-- Settles O8: the bytes are those that encode the operation, and its word has the number of R152. -/
theorem noteOnMessagePushesItsWord : Obligations.NoteOnMessagePushesItsWord := by
  refine ⟨fun c n v nonzero => ?_, fun c n v s => ?_, rfl⟩
  · exact decode_encode (lw := 2) (i := .msgNoteOn c n v) (by simp [Instr.wf, nonzero])
  · rw [← noteOnWord_eq_ofNat]
    exact exec_of_pushedWord rfl s

/-- Settles O9: the bytes are those that encode the operation, and it pushes the word of a note-off. -/
theorem velocityZeroPushesANoteOff : Obligations.VelocityZeroPushesANoteOff := by
  refine ⟨fun c n => ?_, fun c n s => ?_, fun c c' n r s => rfl, rfl⟩
  · exact decode_encode (lw := 2) (i := .msgNoteOnV0 c n) rfl
  · rw [← noteOffWord_eq_ofNat]
    exact exec_of_pushedWord rfl s

/-- Settles O10: the bytes are those that encode the operation, and its word is the last that the next render step
applies. -/
theorem noteOffMessagePushesItsWord : Obligations.NoteOffMessagePushesItsWord := by
  refine ⟨fun c n r => ?_, fun c n r s => ?_, fun c n r s => ?_, rfl⟩
  · exact decode_encode (lw := 2) (i := .msgNoteOff c n r) rfl
  · rw [← noteOffWord_eq_ofNat]
    exact exec_of_pushedWord rfl s
  · obtain ⟨u, sample, silent⟩ :=
      exec_sample_of_last_off (s := push (noteOffWord n) s) rfl (cmdIsOn_cmdWord 0#1 n 0#7)
    exact ⟨_, u, rfl, sample, silent⟩

/-- Settles O11: what the conditions on the numbers leave out is ignored, and an ignored operation answers its state. -/
theorem ignoredMessagesChangeNothing : Obligations.IgnoredMessagesChangeNothing := by
  refine ⟨fun len b0 b1 b2 s other => exec_of_ignored (decodeMsg_ignored_of_not_note ?_) s,
    fun len b0 b1 b2 s => ⟨rfl, rfl, rfl, rfl, rfl, rfl⟩, by decide⟩
  rwa [isNoteKind_kindOf_iff, highBit_eq_false_iff, highBit_eq_false_iff]

end Sys2Proof.Machine
end

section
/-! PROOFS. The applies and the render step (43_render_loop.md R170 to R179), with the obligations
NoteOnApplySetsPhaseIncrementAndGain, NoteOffApplySilences, RenderStepClosedForm, CommandsApplyOnceInArrivalOrder and
FirstSamplesAfterNoteOn. -/

namespace Sys2Proof.Machine

/-! ### The OP bit of a word -/

/-- OP is bit 14, the one bit of the mask 0x4000 (30_encoding.md R87). -/
theorem cmdIsOn_eq_getLsbD_and (c : Cmd) : cmdIsOn c = (c &&& 0x4000#15).getLsbD 14 := by
  rw [BitVec.getLsbD_and]
  exact (Bool.and_true _).symm

theorem decode_cmd_of_on {c : Cmd} (on : cmdIsOn c = true) :
    decode (.cmd c) = .cmdNoteOn (cmdNote c) (cmdVel c) := by rw [decode, decodeCmd, if_pos on]

theorem decode_cmd_of_off {c : Cmd} (off : cmdIsOn c = false) :
    decode (.cmd c) = .cmdNoteOff (cmdNote c) (cmdVel c) := by rw [decode, decodeCmd, if_neg (by simp [off])]

/-! ### What the words of a drain leave in the registers -/

theorem lastNoteOn_concat_of_on (ws : List Cmd) {c : Cmd} (on : cmdIsOn c = true) : lastNoteOn (ws ++ [c]) = some c := by
  simp [lastNoteOn, on]

theorem lastNoteOn_concat_of_off (ws : List Cmd) {c : Cmd} (off : cmdIsOn c = false) :
    lastNoteOn (ws ++ [c]) = lastNoteOn ws := by simp [lastNoteOn, off]

/-- The batch law (R175): GAIN is set by the last word, PHASE and INC by the last NoteOn. -/
theorem applyAll_eq (ws : List Cmd) (s : State) :
    applyAll ws s =
      { s with
        gain := ws.getLast?.elim s.gain fun c => if cmdIsOn c then cmdVel c else 0#7
        phase := (lastNoteOn ws).elim s.phase fun _ => 0
        inc := (lastNoteOn ws).elim s.inc fun c => memReadNT s.cfg (cmdNote c) } := by
  induction ws using List.reverseRecOn with
  | nil => rfl
  | append_singleton ws c ih =>
    rw [applyAll_concat, ih, List.getLast?_concat]
    cases op : cmdIsOn c with
    | true => simp [applyWord_on _ c op, lastNoteOn_concat_of_on ws op, op]
    | false => simp [applyWord_off _ c op, lastNoteOn_concat_of_off ws op, op]

/-- A drain that ends with a NoteOn leaves nothing of the registers it found (R172). -/
theorem applyAll_of_last_on {ws : List Cmd} {c : Cmd} (last : ws.getLast? = some c) (on : cmdIsOn c = true)
    (s : State) : applyAll ws s = { s with phase := 0, inc := memReadNT s.cfg (cmdNote c), gain := cmdVel c } := by
  obtain ⟨us, rfl⟩ := List.getLast?_eq_some_iff.mp last
  simp [applyAll_eq, lastNoteOn_concat_of_on us on, on]

/-! ### Messages that fit the channel -/

theorem pushWord_of_lt {cap : Nat} {l : List Cmd} (c : Cmd) (h : l.length < cap) : pushWord cap l c = l ++ [c] := by
  rw [pushWord, if_neg h.ne]

/-- Messages whose words fit the channel lose nothing (20_memory.md R61). -/
theorem acceptAll_of_fits (ms : List Message) {s : State} (fits : (s.fifo ++ wordsOf ms).length ≤ s.cfg.cap) :
    acceptAll ms s = .next { s with fifo := s.fifo ++ wordsOf ms } := by
  induction ms generalizing s with
  | nil => rw [wordsOf, List.filterMap_nil, List.append_nil, acceptAll]
  | cons m rest ih =>
    rw [acceptAll_cons]
    cases word : commandOf m.len m.b0 m.b1 m.b2 with
    | none =>
      have same : wordsOf (m :: rest) = wordsOf rest := List.filterMap_cons_none word
      rw [same] at fits ⊢
      exact ih fits
    | some c =>
      have longer : wordsOf (m :: rest) = c :: wordsOf rest := List.filterMap_cons_some word
      rw [longer, List.append_cons] at fits ⊢
      have room : s.fifo.length < s.cfg.cap := by
        simp only [List.length_append, List.length_singleton] at fits
        omega
      rw [Option.elim_some, push, pushWord_of_lt c room]
      exact ih fits

/-! ### The obligations -/

/-- Settles O16: bit 14 selects the apply, and the entry read is that of a legal ROM. -/
theorem noteOnApplySetsPhaseIncrementAndGain : Obligations.NoteOnApplySetsPhaseIncrementAndGain := by
  refine ⟨fun c on => decode_cmd_of_on ?_, fun n v s wf => ?_, rfl⟩
  · rw [cmdIsOn_eq_getLsbD_and, on]
    rfl
  · rw [← memReadNT_of_wf s.cfg wf]
    rfl

/-- Settles O17: bit 14 selects the apply, which writes GAIN alone. -/
theorem noteOffApplySilences : Obligations.NoteOffApplySilences := by
  refine ⟨fun c off => decode_cmd_of_off ?_, fun n v s => rfl, by decide⟩
  rw [cmdIsOn_eq_getLsbD_and, off]
  rfl

/-- Settles O18: the batch law for the registers, then NEXT_SAMPLE with the interpolation written out. -/
theorem renderStepClosedForm : Obligations.RenderStepClosedForm := by
  refine ⟨fun s => ?_, rfl, rfl⟩
  rw [exec_sample, applyAll_eq, nextSample_writes, sampleOf, applyGain, lerp_eq]
  cases s.fifo.getLast? <;> cases lastNoteOn s.fifo <;> rfl

/-- Settles O19: nothing is evicted, so FIFO holds the words in arrival order, and the loop takes them in that order. -/
theorem commandsApplyOnceInArrivalOrder : Obligations.CommandsApplyOnceInArrivalOrder := by
  intro ms s t words fits accepted
  rw [acceptAll_of_fits ms fits] at accepted
  cases accepted
  exact ⟨_, exec_sample _, by simp, rfl⟩

/-- Settles O21: the NoteOn sets PHASE to 0, where the interpolation is the entry itself; one advance from there is
NT[n] mod M. -/
theorem firstSamplesAfterNoteOn : Obligations.FirstSamplesAfterNoteOn := by
  refine ⟨fun s c last on => ?_, by decide⟩
  have start : lerp s.cfg 0 = memReadWT s.cfg 0 := by
    rw [lerp_of_fraction_zero s.cfg (Nat.zero_mod _), Nat.zero_div]
  have first : sampleOf (applyAll s.fifo (drained s)) = applyGain (memReadWT s.cfg 0) (cmdVel c) := by
    rw [applyAll_of_last_on last on, ← start]
    rfl
  have second : (nextSample (applyAll s.fifo (drained s))).phase =
      memReadNT s.cfg (cmdNote c) % modulus s.cfg.toParams := by
    rw [applyAll_of_last_on last on, nextSample_phase, advance, Nat.zero_add]
    rfl
  refine ⟨_, _, exec_sample s, exec_sample_of_nil (by simp), first, fun zero => ?_, ?_⟩
  · rw [nextSample_out, first, zero, applyGain, Int.zero_mul]
    rfl
  · rw [nextSample_out, sampleOf, second, applyAll_of_last_on last on]
    rfl

end Sys2Proof.Machine
end

section
/-! PROOFS. Runs of the render loop over a schedule (43_render_loop.md R177 to R181, 70_reset_and_hazards.md R231), with the
obligations ExactlyOneSamplePerPull, SilenceUntilADrainEndsWithNoteOn and EvictionDoesNotChangeTheOutput. -/

namespace Sys2Proof.Machine

/-! ### One edge as a function of the state -/

/-- The word that the message port makes the mapper push, if any (42_command_mapper.md R151). -/
def portWord (m : Option Message) : Option Cmd := m.bind fun m => commandOf m.len m.b0 m.b1 m.b2

/-- The accept step on what the message port carries: at most one push (42_command_mapper.md R150). -/
def acceptPort (m : Option Message) (s : State) : State := (portWord m).elim s (push · s)

/-- The render step: drain, apply, sample (R170). -/
def render (s : State) : State := nextSample (applyAll s.fifo (drained s))

/-- What an edge does to the registers and the channel: a reset alone, else the pull before the message (R231). -/
def edgeEffect (e : Edge) (s : State) : State :=
  if e.rst then clearAll s else acceptPort e.msg (if e.smpReq then render s else s)

/-- The pins at the coming edge where the latch is empty; past the end of the schedule nothing is presented. -/
def comingPins (s : State) : Edge := s.pending.headD ⟨false, false, none⟩

/-- The state that the coming edge leaves. -/
def afterEdge (s : State) : State :=
  setSmpValid (smpValidAfter (comingPins s)) (edgeEffect (comingPins s) (setPending s.pending.tail s))

theorem runOps_decode_msg (m : Message) (s : State) :
    runOps [decode (.msg m.len m.b0 m.b1 m.b2)] s = .next (acceptPort (some m) s) := by
  rw [runOps_singleton, exec_decode_msg]
  rfl

theorem clockEdge_eq (e : Edge) (s : State) :
    clockEdge e s = .next (setSmpValid (smpValidAfter e) (edgeEffect e s)) := by
  obtain ⟨rst, pull, msg⟩ := e
  cases rst with
  | true => rfl
  | false =>
    cases pull <;> cases msg with
    | none => rfl
    | some m => simp only [clockEdge_message, clockEdge_both, runOps_decode_msg]; rfl

/-- An idle edge is one that presents nothing, so every step with an empty latch is an edge (R231, R232). -/
theorem step_eq_afterEdge {s : State} (latch : s.applyLatch = none) : step s = .next (afterEdge s) := by
  cases schedule : s.pending with
  | nil =>
    have taken : setPending [] s = s := by rw [setPending, ← schedule]
    rw [step_of_idle s latch schedule, afterEdge, comingPins, schedule, List.tail_nil, taken]
    rfl
  | cons e rest =>
    rw [step_of_edge s e rest latch schedule, clockEdge_eq, afterEdge, comingPins, schedule]
    rfl

theorem smpValidAfter_eq (e : Edge) : smpValidAfter e = (!e.rst && e.smpReq) := by
  rw [smpValidAfter]
  cases e.rst <;> rfl

/-! ### What an edge leaves alone -/

@[simp] theorem acceptPort_gain (m : Option Message) (s : State) : (acceptPort m s).gain = s.gain := by
  unfold acceptPort; cases portWord m <;> rfl
@[simp] theorem acceptPort_out (m : Option Message) (s : State) : (acceptPort m s).out = s.out := by
  unfold acceptPort; cases portWord m <;> rfl
@[simp] theorem acceptPort_pending (m : Option Message) (s : State) : (acceptPort m s).pending = s.pending := by
  unfold acceptPort; cases portWord m <;> rfl
@[simp] theorem acceptPort_applyLatch (m : Option Message) (s : State) :
    (acceptPort m s).applyLatch = s.applyLatch := by
  unfold acceptPort; cases portWord m <;> rfl

@[simp] theorem render_pending (s : State) : (render s).pending = s.pending := by simp [render]
@[simp] theorem render_applyLatch (s : State) : (render s).applyLatch = s.applyLatch := by simp [render]

@[simp] theorem edgeEffect_pending (e : Edge) (s : State) : (edgeEffect e s).pending = s.pending := by
  cases rst : e.rst <;> cases pull : e.smpReq <;> simp [edgeEffect, rst, pull]
@[simp] theorem edgeEffect_applyLatch (e : Edge) (s : State) : (edgeEffect e s).applyLatch = s.applyLatch := by
  cases rst : e.rst <;> cases pull : e.smpReq <;> simp [edgeEffect, rst, pull]

@[simp] theorem afterEdge_pending (s : State) : (afterEdge s).pending = s.pending.tail := by simp [afterEdge]
@[simp] theorem afterEdge_applyLatch (s : State) : (afterEdge s).applyLatch = s.applyLatch := by simp [afterEdge]
@[simp] theorem afterEdge_smpValid (s : State) : (afterEdge s).smpValid = smpValidAfter (comingPins s) := rfl

/-! ### Samples are counted by pulls -/

theorem observe_succ_of_latch {s : State} (latch : s.applyLatch = none) (k : Nat) :
    observe (k + 1) s =
      (if smpValidAfter (comingPins s) then [(afterEdge s).out] else []) ++ observe k (afterEdge s) := by
  rw [observe_succ k s _ (step_eq_afterEdge latch), afterEdge_smpValid]

theorem stateAfter_succ_of_latch {s : State} (latch : s.applyLatch = none) (k : Nat) :
    stateAfter (k + 1) s = stateAfter k (afterEdge s) := stateAfter_succ k s _ (step_eq_afterEdge latch)

/-- Each step puts out one sample where its edge pulls without reset (R177). -/
theorem length_observe (k : Nat) {s : State} (latch : s.applyLatch = none) :
    (observe k s).length = ((s.pending.take k).filter smpValidAfter).length := by
  induction k generalizing s with
  | zero => rfl
  | succ k ih =>
    rw [observe_succ_of_latch latch, List.length_append, ih (by rw [afterEdge_applyLatch, latch]), afterEdge_pending]
    cases schedule : s.pending with
    | nil => simp [comingPins, schedule, smpValidAfter]
    | cons e rest => cases pulls : smpValidAfter e <;> simp [comingPins, schedule, pulls, Nat.add_comm]

/-! ### Silence -/

theorem sampleOf_of_silent {s : State} (silent : s.gain = 0#7) : sampleOf s = 0 := by
  rw [sampleOf, silent, applyGain_zero]

/-- A render step keeps the silence unless its drain ends with a NoteOn (R178). -/
theorem render_of_silent {s : State} (silent : s.gain = 0#7)
    (quiet : ∀ c, s.fifo.getLast? = some c → cmdIsOn c = false) : (render s).gain = 0#7 ∧ (render s).out = 0 := by
  have gain : (applyAll s.fifo (drained s)).gain = 0#7 := by
    rw [applyAll_eq]
    cases last : s.fifo.getLast? with
    | none => exact silent
    | some c => simp [quiet c last]
  exact ⟨gain, sampleOf_of_silent gain⟩

/-- What `drainsToNoteOn` denies, for a step that takes its edge from the schedule. -/
theorem drainsToNoteOn_eq_false_iff {s : State} (latch : s.applyLatch = none) :
    drainsToNoteOn s = false ↔
      (smpValidAfter (comingPins s) = true → ∀ c, s.fifo.getLast? = some c → cmdIsOn c = false) := by
  rw [drainsToNoteOn, comingEdge, latch, comingPins, smpValidAfter_eq]
  cases s.pending <;> cases s.fifo.getLast? <;> simp

theorem afterEdge_of_silent {s : State} (silent : s.gain = 0#7)
    (quiet : smpValidAfter (comingPins s) = true → ∀ c, s.fifo.getLast? = some c → cmdIsOn c = false) :
    (afterEdge s).gain = 0#7 ∧ (smpValidAfter (comingPins s) = true → (afterEdge s).out = 0) := by
  rw [smpValidAfter_eq] at quiet ⊢
  rw [afterEdge, setSmpValid_gain, setSmpValid_out, edgeEffect]
  cases rst : (comingPins s).rst with
  | true => simp
  | false =>
    cases pull : (comingPins s).smpReq with
    | false => simp [silent]
    | true =>
      have rendered := render_of_silent (s := setPending s.pending.tail s) silent (quiet (by simp [rst, pull]))
      simp [rendered]

/-! ### Two capacities -/

/-- s and s' run one schedule with their own capacities: each channel holds the newest of `words` that it has room for, and
PHASE and INC differ at most while GAIN is 0 (R181). -/
structure SameUpToEviction (cap' : Nat) (words : List Cmd) (s s' : State) : Prop where
  room : 1 ≤ s.cfg.cap
  room' : 1 ≤ cap'
  cfg : s'.cfg = { s.cfg with cap := cap' }
  fifo : s.fifo = words.rtake s.cfg.cap
  fifo' : s'.fifo = words.rtake cap'
  gain : s.gain = s'.gain
  out : s.out = s'.out
  pending : s.pending = s'.pending
  latch : s.applyLatch = none
  latch' : s'.applyLatch = none
  registers : s.gain ≠ 0#7 → s.phase = s'.phase ∧ s.inc = s'.inc

theorem getLast?_rtake {cap : Nat} (room : 1 ≤ cap) (words : List Cmd) :
    (words.rtake cap).getLast? = words.getLast? := by
  rw [List.rtake, List.getLast?_drop]
  split_ifs with short
  · have empty : words = [] := List.eq_nil_of_length_eq_zero (by omega)
    rw [empty, List.getLast?_nil]
  · rfl

namespace SameUpToEviction

variable {cap' : Nat} {words : List Cmd} {s s' : State}

/-- The newest word is in both channels, and it alone settles GAIN, and where it is a NoteOn, PHASE and INC. -/
theorem applied (same : SameUpToEviction cap' words s s') :
    SameUpToEviction cap' [] (applyAll s.fifo (drained s)) (applyAll s'.fifo (drained s')) := by
  have last := getLast?_rtake same.room words
  have last' := getLast?_rtake same.room' words
  rw [← same.fifo] at last
  rw [← same.fifo'] at last'
  have gain : (applyAll s.fifo (drained s)).gain = (applyAll s'.fifo (drained s')).gain := by
    rw [applyAll_eq, applyAll_eq s'.fifo, last, last']
    simp [same.gain]
  have registers (sounds : (applyAll s.fifo (drained s)).gain ≠ 0#7) :
      (applyAll s.fifo (drained s)).phase = (applyAll s'.fifo (drained s')).phase ∧
        (applyAll s.fifo (drained s)).inc = (applyAll s'.fifo (drained s')).inc := by
    cases newest : words.getLast? with
    | none =>
      have empty : s.fifo = [] := List.getLast?_eq_none_iff.mp (last.trans newest)
      have empty' : s'.fifo = [] := List.getLast?_eq_none_iff.mp (last'.trans newest)
      rw [empty] at sounds ⊢
      rw [empty']
      exact same.registers sounds
    | some c =>
      rw [newest] at last last'
      cases op : cmdIsOn c with
      | true =>
        have rom : memReadNT s.cfg = memReadNT s'.cfg := by
          rw [same.cfg]
          rfl
        rw [applyAll_of_last_on last op, applyAll_of_last_on last' op, drained_cfg, drained_cfg, rom]
        exact ⟨rfl, rfl⟩
      | false => exact absurd (by simp [applyAll_eq, last, op]) sounds
  exact
    { room := by simp [same.room]
      room' := same.room'
      cfg := by simp [same.cfg]
      fifo := by simp
      fifo' := by simp
      gain := gain
      out := by simp [same.out]
      pending := by simp [same.pending]
      latch := by simp [same.latch]
      latch' := by simp [same.latch']
      registers := registers }

/-- The sample reads PHASE only through a gain, so it does not see it while GAIN is 0. -/
theorem sampled (same : SameUpToEviction cap' words s s') :
    SameUpToEviction cap' words (nextSample s) (nextSample s') := by
  have cfg := same.cfg
  have out : sampleOf s = sampleOf s' := by
    by_cases silent : s.gain = 0#7
    · rw [sampleOf_of_silent silent, sampleOf_of_silent (same.gain ▸ silent)]
    · rw [sampleOf, sampleOf, (same.registers silent).1, same.gain, cfg]
      rfl
  refine { same with out := out, registers := fun sounds => ?_ }
  obtain ⟨phase, inc⟩ := same.registers sounds
  refine ⟨?_, inc⟩
  rw [nextSample_phase, nextSample_phase, phase, inc, cfg]
  rfl

theorem rendered (same : SameUpToEviction cap' words s s') : SameUpToEviction cap' [] (render s) (render s') :=
  same.applied.sampled

theorem accepted (same : SameUpToEviction cap' words s s') (m : Option Message) :
    ∃ words', SameUpToEviction cap' words' (acceptPort m s) (acceptPort m s') := by
  unfold acceptPort
  cases portWord m with
  | none => exact ⟨words, same⟩
  | some c =>
    refine ⟨words ++ [c], { same with fifo := ?_, fifo' := ?_ }⟩
    · exact (congrArg (pushWord _ · c) same.fifo).trans (pushWord_rtake words c same.room)
    · have cap : s'.cfg.cap = cap' := by rw [same.cfg]
      rw [Option.elim_some, push_fifo, cap, same.fifo', pushWord_rtake words c same.room']

theorem cleared (same : SameUpToEviction cap' words s s') : SameUpToEviction cap' [] (clearAll s) (clearAll s') :=
  { same with
    fifo := (List.rtake_nil _).symm
    fifo' := (List.rtake_nil _).symm
    gain := rfl
    out := rfl
    registers := fun _ => ⟨rfl, rfl⟩ }

theorem after_effect (same : SameUpToEviction cap' words s s') (e : Edge) :
    ∃ words', SameUpToEviction cap' words' (edgeEffect e s) (edgeEffect e s') := by
  unfold edgeEffect
  cases e.rst with
  | true => exact ⟨[], same.cleared⟩
  | false =>
    cases e.smpReq with
    | true => exact same.rendered.accepted e.msg
    | false => exact same.accepted e.msg

theorem comingPins_eq (same : SameUpToEviction cap' words s s') : comingPins s = comingPins s' := by
  rw [comingPins, comingPins, same.pending]

theorem after_edge (same : SameUpToEviction cap' words s s') :
    ∃ words', SameUpToEviction cap' words' (afterEdge s) (afterEdge s') := by
  have taken : SameUpToEviction cap' words (setPending s.pending.tail s) (setPending s'.pending.tail s') :=
    { same with pending := congrArg List.tail same.pending }
  obtain ⟨words', effect⟩ := taken.after_effect (comingPins s)
  refine ⟨words', ?_⟩
  unfold afterEdge
  rw [← same.comingPins_eq]
  exact { effect with }

/-- The simulation over any number of edges. -/
theorem after_run (same : SameUpToEviction cap' words s s') (k : Nat) :
    observe k s = observe k s' ∧
      ∃ words' t t', stateAfter k s = some t ∧ stateAfter k s' = some t' ∧ SameUpToEviction cap' words' t t' := by
  induction k generalizing words s s' with
  | zero => exact ⟨rfl, words, s, s', rfl, rfl, same⟩
  | succ k ih =>
    obtain ⟨words', after⟩ := same.after_edge
    obtain ⟨samples, states⟩ := ih after
    rw [observe_succ_of_latch same.latch, observe_succ_of_latch same.latch', stateAfter_succ_of_latch same.latch,
      stateAfter_succ_of_latch same.latch', ← same.comingPins_eq, after.out, samples]
    exact ⟨rfl, states⟩

end SameUpToEviction

/-! ### The obligations -/

/-- Settles O23: each step with an empty latch puts out a sample exactly where its edge pulls without reset. -/
theorem exactlyOneSamplePerPull : Obligations.ExactlyOneSamplePerPull := by
  intro k s latch
  rw [length_observe k latch, funext smpValidAfter_eq]

/-- Settles O20: GAIN = 0 is an invariant of the edges that drain to no NoteOn, and a gain of 0 makes the sample 0. -/
theorem silenceUntilADrainEndsWithNoteOn : Obligations.SilenceUntilADrainEndsWithNoteOn := by
  refine ⟨fun s c last off => ?_, fun k => ?_, fun s => ⟨_, exec_reset s, rfl⟩⟩
  · obtain ⟨ws, fifo⟩ := List.getLast?_eq_some_iff.mp last
    obtain ⟨t, run, gain, out⟩ := exec_sample_of_last_off fifo off
    exact ⟨t, run, out, gain⟩
  · induction k with
    | zero => exact fun s _ _ _ x mem => absurd mem List.not_mem_nil
    | succ k ih =>
      intro s latch silent quiet x mem
      have now := (drainsToNoteOn_eq_false_iff latch).mp (quiet 0 k.succ_pos s rfl)
      obtain ⟨gain, out⟩ := afterEdge_of_silent silent now
      rw [observe_succ_of_latch latch, List.mem_append] at mem
      rcases mem with head | tail
      · split_ifs at head with pulls
        · rw [List.mem_singleton.mp head, out pulls]
        · exact absurd head List.not_mem_nil
      · refine ih (afterEdge s) (by rw [afterEdge_applyLatch, latch]) gain (fun j hj t run => ?_) x tail
        exact quiet (j + 1) (Nat.succ_lt_succ hj) t ((stateAfter_succ_of_latch latch j).trans run)

/-- Settles O22: from an empty channel the two states are related, and every edge keeps the relation. -/
theorem evictionDoesNotChangeTheOutput : Obligations.EvictionDoesNotChangeTheOutput := by
  intro s cap' k latch empty room room' s'
  have start : SameUpToEviction cap' [] s s' :=
    { room := room
      room' := room'
      cfg := rfl
      fifo := empty.trans (List.rtake_nil _).symm
      fifo' := empty.trans (List.rtake_nil _).symm
      gain := rfl
      out := rfl
      pending := rfl
      latch := latch
      latch' := latch
      registers := fun _ => ⟨rfl, rfl⟩ }
  obtain ⟨samples, words, t, t', run, run', same⟩ := start.after_run k
  exact ⟨samples, t, t', run, run', same.gain, same.out, same.registers⟩

end Sys2Proof.Machine
end

section
/-! PROOFS. No step stops, and how edges follow one another (60_exceptions.md R190, R196, R202), with the obligations
SharedEdgeIsAnInterleaving, ScheduleIsTakenInOrder, IdleEdgesKeepAllState and NoStepStops. -/

namespace Sys2Proof.Machine

/-! ### Every operation and every step answers a next state -/

theorem exists_exec_eq_next (i : Instr) (s : State) : ∃ t, exec i s = .next t := by
  cases i <;> exact ⟨_, rfl⟩

/-- A latched word runs as one pass of the render step's loop, on the state without it (log entry 3). -/
theorem step_eq_applyWord {s : State} {w : Cmd} (latch : s.applyLatch = some w) :
    step s = .next (setSmpValid false (applyWord (clearLatch s) w)) := by
  rw [step_of_latch s w latch, applyLatched, exec_decode_cmd, mapNext_next]

theorem exists_step_eq_next (s : State) : ∃ t, step s = .next t := by
  cases latch : s.applyLatch with
  | none => exact ⟨_, step_eq_afterEdge latch⟩
  | some w => exact ⟨_, step_eq_applyWord latch⟩

theorem exists_stateAfter_eq_some (k : Nat) (s : State) : ∃ t, stateAfter k s = some t := by
  induction k generalizing s with
  | zero => exact ⟨s, rfl⟩
  | succ k ih =>
    obtain ⟨u, head⟩ := exists_step_eq_next s
    rw [stateAfter_succ k s u head]
    exact ih u

/-! ### The render step reads no schedule, and the accept step no smp_valid -/

theorem applyWord_setPending (rest : List Edge) (s : State) (c : Cmd) :
    applyWord (setPending rest s) c = setPending rest (applyWord s c) := by
  unfold applyWord
  split <;> rfl

theorem applyAll_setPending (ws : List Cmd) (rest : List Edge) (s : State) :
    applyAll ws (setPending rest s) = setPending rest (applyAll ws s) :=
  List.foldl_hom (setPending rest) (applyWord_setPending rest)

theorem render_setPending (rest : List Edge) (s : State) : render (setPending rest s) = setPending rest (render s) := by
  have drain : drained (setPending rest s) = setPending rest (drained s) := rfl
  rw [render, drain, applyAll_setPending]
  rfl

theorem acceptPort_setSmpValid (m : Option Message) (v : Bool) (s : State) :
    acceptPort m (setSmpValid v s) = setSmpValid v (acceptPort m s) := by
  unfold acceptPort
  cases portWord m <;> rfl

/-! ### A pull and a message, at one edge and at two -/

theorem afterEdge_both (m : Message) (rest : List Edge) (s : State) :
    afterEdge (setPending (⟨false, true, some m⟩ :: rest) s) =
      setSmpValid true (acceptPort (some m) (setPending rest (render s))) := by
  rw [← render_setPending]
  rfl

theorem afterEdge_pull (rest : List Edge) (s : State) :
    afterEdge (setPending (pullEdge :: rest) s) = setPending rest (setSmpValid true (render s)) := by
  calc afterEdge (setPending (pullEdge :: rest) s) = setSmpValid true (render (setPending rest s)) := rfl
    _ = setPending rest (setSmpValid true (render s)) := by
      rw [render_setPending]
      rfl

theorem afterEdge_message (m : Message) (rest : List Edge) (s : State) :
    afterEdge (setPending (messageEdge m.len m.b0 m.b1 m.b2 :: rest) s) =
      setSmpValid false (acceptPort (some m) (setPending rest s)) := rfl

/-- Taken off the schedule one by one, the pull and the message leave what the shared edge leaves, but for `smp_valid`: in
both the message meets the state after the render step (70_reset_and_hazards.md R231). -/
theorem afterEdge_pull_message (m : Message) (rest : List Edge) (s : State) :
    afterEdge (afterEdge (setPending (pullEdge :: messageEdge m.len m.b0 m.b1 m.b2 :: rest) s)) =
      setSmpValid false (afterEdge (setPending (⟨false, true, some m⟩ :: rest) s)) := by
  have flag_moves : setPending rest (setSmpValid true (render s)) = setSmpValid true (setPending rest (render s)) := rfl
  rw [afterEdge_pull, afterEdge_message, flag_moves, acceptPort_setSmpValid, afterEdge_both]

/-- The sample of the shared edge is that of the render step alone. -/
theorem observe_both (m : Message) (rest : List Edge) {s : State} (latch : s.applyLatch = none) :
    observe 1 (setPending (⟨false, true, some m⟩ :: rest) s) = [(render s).out] := by
  have scheduled (edges : List Edge) : (setPending edges s).applyLatch = none := latch
  rw [observe_succ _ _ _ (step_eq_afterEdge (scheduled _)), afterEdge_both]
  simp

theorem observe_pull_message (m : Message) (rest : List Edge) {s : State} (latch : s.applyLatch = none) :
    observe 2 (setPending (pullEdge :: messageEdge m.len m.b0 m.b1 m.b2 :: rest) s) = [(render s).out] := by
  have scheduled (edges : List Edge) : (setPending edges s).applyLatch = none := latch
  rw [observe_succ _ _ _ (step_eq_afterEdge (scheduled _)),
    observe_succ _ _ _ (step_eq_afterEdge ((afterEdge_applyLatch _).trans (scheduled _))), afterEdge_pull_message,
    afterEdge_pull]
  simp

/-! ### The obligations -/

/-- Settles O44: the two edges leave the state of the shared one, and the one sample is that of the render step. -/
theorem sharedEdgeIsAnInterleaving : Obligations.SharedEdgeIsAnInterleaving := by
  intro s m rest latch
  refine ⟨afterEdge (setPending (⟨false, true, some m⟩ :: rest) s), step_eq_afterEdge latch, ?_,
    (observe_both m rest latch).trans (observe_pull_message m rest latch).symm⟩
  have scheduled (edges : List Edge) : (setPending edges s).applyLatch = none := latch
  calc stateAfter 2 (setPending (pullEdge :: messageEdge m.len m.b0 m.b1 m.b2 :: rest) s)
      = stateAfter 1 (afterEdge _) := stateAfter_succ_of_latch (scheduled _) 1
    _ = some (afterEdge (afterEdge _)) := stateAfter_succ_of_latch ((afterEdge_applyLatch _).trans (scheduled _)) 0
    _ = _ := congrArg some (afterEdge_pull_message m rest s)

/-- Settles O52: an edge takes itself off the schedule and leaves the empty latch, a latched word empties the latch alone. -/
theorem scheduleIsTakenInOrder : Obligations.ScheduleIsTakenInOrder := by
  intro s t run
  cases latch : s.applyLatch with
  | none =>
    rw [step_eq_afterEdge latch] at run
    cases run
    simp [latch]
  | some w =>
    rw [step_eq_applyWord latch] at run
    cases run
    simp

/-- Settles O46: past the end of the schedule and at an edge of idle pins, the step runs no operation. -/
theorem idleEdgesKeepAllState : Obligations.IdleEdgesKeepAllState := by
  refine fun s latch => ⟨fun schedule => ?_, fun rest schedule => ?_⟩
  · rw [step_of_idle s latch schedule]
    rfl
  · rw [step_of_edge s _ rest latch schedule, clockEdge_none]
    rfl

/-- Settles O47: every arm of `exec` is a next state, so every step is one, and so is every run. -/
theorem noStepStops : Obligations.NoStepStops :=
  ⟨exists_exec_eq_next, exists_step_eq_next, exists_stateAfter_eq_some⟩

end Sys2Proof.Machine
end

section
/-! PROOFS. RESET and the order of one clock edge (70_reset_and_hazards.md R221, R226, R231), with the obligations
ClockEdgeOrder, SameEdgeMessageMissesThePull and ResetClearsTheFiveElements. -/

namespace Sys2Proof.Machine

/-! ### The step at the head of the schedule -/

theorem step_of_scheduled {s : State} {e : Edge} {rest : List Edge} (latch : s.applyLatch = none)
    (schedule : s.pending = e :: rest) :
    step s = .next (setSmpValid (smpValidAfter e) (edgeEffect e (setPending rest s))) := by
  rw [step_of_edge s e rest latch schedule, clockEdge_eq]

/-- An edge with `rst` is the reset alone, whatever else it presents (R231). -/
theorem step_of_rst {s : State} {e : Edge} {rest : List Edge} (latch : s.applyLatch = none)
    (schedule : s.pending = e :: rest) (rst : e.rst = true) :
    step s = .next (setSmpValid false (clearAll (setPending rest s))) := by
  rw [step_of_scheduled latch schedule, smpValidAfter, edgeEffect, if_pos rst, if_pos rst]

/-- An edge without `rst` is the render step, if a sample is pulled, then the accept step on what that leaves (R231). -/
theorem step_of_not_rst {s : State} {e : Edge} {rest : List Edge} (latch : s.applyLatch = none)
    (schedule : s.pending = e :: rest) (rst : e.rst = false) :
    step s = .next (setSmpValid e.smpReq
      (acceptPort e.msg (if e.smpReq then render (setPending rest s) else setPending rest s))) := by
  have active : ¬ e.rst = true := by simp [rst]
  rw [step_of_scheduled latch schedule, smpValidAfter, edgeEffect, if_neg active, if_neg active]

theorem step_of_pull {s : State} {rest : List Edge} (latch : s.applyLatch = none)
    (schedule : s.pending = pullEdge :: rest) : step s = .next (setSmpValid true (render (setPending rest s))) :=
  step_of_not_rst latch schedule rfl

/-! ### The render step and the accept step as operations -/

theorem exec_sample_eq_render (s : State) : exec .sample s = .next (render s) := exec_sample s

theorem exec_decode_message (m : Message) (s : State) :
    exec (decode (.msg m.len m.b0 m.b1 m.b2)) s = .next (acceptPort (some m) s) :=
  exec_decode_msg m.len m.b0 m.b1 m.b2 s

/-- The render step leaves FIFO empty (43_render_loop.md R171). -/
@[simp] theorem render_fifo (s : State) : (render s).fifo = [] := by simp [render]

@[simp] theorem render_cfg (s : State) : (render s).cfg = s.cfg := by simp [render]

/-- A drain of one word sets GAIN by that word (43_render_loop.md R172, R173). -/
theorem render_gain_of_fifo_singleton {s : State} {c : Cmd} (fifo : s.fifo = [c]) :
    (render s).gain = if cmdIsOn c then cmdVel c else 0#7 := by
  rw [render, fifo, nextSample_gain, applyAll_eq, List.getLast?_singleton, Option.elim_some]

/-- On an empty channel of at least one place the accept step leaves the word of the message alone, if it has one. -/
theorem acceptPort_of_fifo_nil (m : Option Message) {s : State} (empty : s.fifo = []) (room : 1 ≤ s.cfg.cap) :
    acceptPort m s = { s with fifo := (portWord m).toList } := by
  rw [acceptPort]
  cases portWord m with
  | none => rw [Option.toList_none, ← empty, Option.elim_none]
  | some c => rw [Option.elim_some, push, empty, pushWord_of_lt c room, List.nil_append, Option.toList_some]

/-- The shared edge is the render step with the word of the message as the whole channel after it: the drain has emptied
FIFO before the accept step pushes (R231). -/
theorem step_of_pull_and_message {s : State} {m : Message} {rest : List Edge} (latch : s.applyLatch = none)
    (room : 1 ≤ s.cfg.cap) (schedule : s.pending = ⟨false, true, some m⟩ :: rest) :
    step s = .next { render (setPending rest s) with
      fifo := (commandOf m.len m.b0 m.b1 m.b2).toList, smpValid := true } := by
  have accepted := acceptPort_of_fifo_nil (some m) (render_fifo (setPending rest s)) (by rwa [render_cfg])
  rw [step_of_not_rst latch schedule rfl, if_pos rfl, accepted]
  rfl

/-! ### The sample after a reset -/

theorem clearAll_resetOf (c : Config) : clearAll (State.resetOf c) = State.resetOf c := rfl

/-- With INC = 0 the phase stays where the reset has put it (R221). -/
theorem render_clearAll_phase (s : State) : (render (clearAll s)).phase = 0 := by
  rw [render, clearAll_fifo, applyAll_nil, nextSample_phase]
  exact Nat.zero_mod _

/-- With GAIN = 0 and nothing to drain the sample is 0 (R221). -/
theorem render_clearAll_out (s : State) : (render (clearAll s)).out = 0 := by
  obtain ⟨-, out⟩ := render_of_silent (s := clearAll s) rfl (by simp)
  exact out

/-! ### The obligations -/

/-- Settles O42: the edge is the reset alone, or the render step before the accept step, which then meets an empty
channel, full or not before the edge. -/
theorem clockEdgeOrder : Obligations.ClockEdgeOrder := by
  refine ⟨fun s e rest latch schedule => ⟨fun rst => ?_, fun rst => ?_⟩, fun s m rest latch room _ schedule => ?_⟩
  · exact ⟨_, exec_reset _, step_of_rst latch schedule rst⟩
  · refine ⟨if e.smpReq then render (setPending rest s) else setPending rest s, _, ?_, ?_,
      step_of_not_rst latch schedule rst⟩
    · cases e.smpReq with
      | true => exact exec_sample_eq_render _
      | false => rfl
    · cases e.msg with
      | none => rfl
      | some m => exact exec_decode_message m _
  · exact ⟨_, step_of_pull_and_message latch room schedule, rfl⟩

/-- Settles O43: the message meets the channel after the drain, so its word is the whole drain of the next pull. -/
theorem sameEdgeMessageMissesThePull : Obligations.SameEdgeMessageMissesThePull := by
  intro s m c rest latch room word schedule
  have shared := step_of_pull_and_message latch room schedule
  rw [word, Option.toList_some] at shared
  refine ⟨_, _, _, exec_sample_eq_render _, shared, rfl, step_of_pull (rest := rest) ?_ ?_, ?_, ?_⟩
  · exact (render_applyLatch _).trans latch
  · exact render_pending _
  · exact render_gain_of_fifo_singleton rfl
  · exact render_fifo _

/-- Settles O41: RESET writes the five elements, and with INC = 0 and GAIN = 0 the next sample is 0 at a phase that
stays 0. -/
theorem resetClearsTheFiveElements : Obligations.ResetClearsTheFiveElements := by
  refine ⟨exec_reset, fun s e rest latch schedule rst => step_of_rst latch schedule rst, fun c => ?_, fun s t run => ?_⟩
  · rw [exec_reset, clearAll_resetOf]
  · cases run
    exact ⟨_, exec_sample_eq_render _, render_clearAll_out s, render_clearAll_phase s⟩

end Sys2Proof.Machine
end
